-- ==== Sys2Proof/Word.lean ====
section
/-! DEFINITION. The byte (rules R7, R31): the only word the unit has. -/

namespace Sys2Proof

/-- A byte, 0..255, bit 7 the most significant (R7). Its natural-number reading `nat(v)` is `BitVec.toNat`. -/
abbrev Byte := BitVec 8

end Sys2Proof
end

