-- ==== Sys2Proof/Config.lean ====
section
/-! DEFINITION. The parameters of the unit (rule R5), and the one value the spec leaves to the environment
that the model keeps as a free value: the transport's answer to a transmit (rule R112). -/

namespace Sys2Proof

/-- The transport's answer to one `Transmit`, with the number `j` of bytes that got out when it fails (R112).
R112 draws `j` in 0 .. len(bs); the model takes the first `j` bytes of `bs`, so every natural `j` stands for one of
those choices. -/
inductive TxAnswer where
  | ok
  | ioError (j : Nat)
  | closed (j : Nat)
  deriving DecidableEq, Repr, Inhabited

namespace Config

/-- `SOF`: header byte of a data frame (R5). -/
def SOF : Byte := 0x01#8
/-- `ACK`: header byte, acknowledged (R5). -/
def ACK : Byte := 0x06#8
/-- `NAK`: header byte, rejected (R5). -/
def NAK : Byte := 0x15#8
/-- `CAN`: header byte, resend-requested (R5). -/
def CAN : Byte := 0x18#8
/-- `FRAME_MIN`: least total length of a valid data frame (R5). -/
def FRAME_MIN : Nat := 5
/-- `FRAME_BIG`: DECODE reports FrameTooBig above this length (R5, C1). -/
def FRAME_BIG : Nat := 258
/-- `FRAME_MAX_WIRE`: greatest total length a valid data frame can have (R5, C1). -/
def FRAME_MAX_WIRE : Nat := 257
/-- `PARAM_MAX`: greatest parameter count ENCODE accepts (R5, D1). -/
def PARAM_MAX : Nat := 252
/-- `RXBUF_CAP`: capacity of the receive queue in bytes (R5, D2). DESIGN CHOICE, log 7: the spec lets a model take
more. -/
def RXBUF_CAP : Nat := 258

/-- The transport's answer to the `k`-th transmit the environment's list says nothing about (R112). A free value: it
has no body, so a claim holds whatever it answers (log 4). -/
opaque freeTxAnswer : Nat → TxAnswer

end Config
end Sys2Proof
end

