-- ==== Sys2Proof/Syntax.lean ====
section
/-! DEFINITION. The unit's instructions: the five wire kinds (rule R55) and the fourteen events (rule R58), one
constructor per row of spec/opcode_table.json, and the two forms in which they reach the unit. -/

namespace Sys2Proof

/-- A completion handle: opaque, compared for equality only (R5, R14, D17; log 6). -/
structure Handle where
  id : Nat
  deriving DecidableEq, Repr

/-- A deadline: opaque, tested for presence only (R5, R14, D18; log 6). -/
structure Deadline where
  tag : Nat
  deriving DecidableEq, Repr

/-- What BOUNDARY answers (R90). -/
inductive Boundary where
  | needMore
  | found (n : Nat)
  deriving DecidableEq, Repr

/-- The unit's operations: what a wire frame makes the read loop do (R115), and the events (R58). -/
inductive Instr where
  /-- DATA: header 0x01, then the Length byte and the `nat(Length)` bytes after it (R52, R57). -/
  | data (length : Byte) (body : List Byte)
  /-- ACK: the control frame 0x06 (R116). -/
  | ack
  /-- NAK: the control frame 0x15 (R117). -/
  | nak
  /-- CAN: the control frame 0x18 (R118). -/
  | can
  /-- UNKNOWN: a control frame with any other header (R119). -/
  | unknown (x : Byte)
  /-- RESET (R170). -/
  | reset
  /-- WRITE (R110, R111, R114). -/
  | write (messageType command : Byte) (parameters : List Byte) (handle : Handle) (deadline : Option Deadline)
  /-- CANCEL (R124). -/
  | cancel (handle : Handle)
  /-- TIMEOUT (R123). -/
  | timeout (handle : Handle)
  /-- SHUTDOWN (R125). -/
  | shutdown
  /-- RX_CHUNK (R92). -/
  | rxChunk (chunk : List Byte)
  /-- RX_CLOSE (R126). -/
  | rxClose
  /-- RX_ERROR (R127). -/
  | rxError
  /-- RX_EXTRACT (R94). -/
  | rxExtract
  /-- CHECKSUM (R72). -/
  | checksum (b : List Byte)
  /-- ENCODE (R73). -/
  | encode (messageType command : Byte) (parameters : List Byte)
  /-- UPDATE_CHECKSUM (R74). -/
  | updateChecksum (b : List Byte)
  /-- DECODE (R75). -/
  | decode (b : List Byte)
  /-- BOUNDARY (R90). -/
  | boundary (q : List Byte)
  deriving DecidableEq, Repr

/-- The operand lines of the event port: one slot per kind of operand of R58. An event reads the slots that R58 lists
for it and no other (log 9). -/
structure Operands where
  messageType : Byte := 0#8
  command : Byte := 0#8
  bytes : List Byte := []
  handle : Handle := ⟨0⟩
  deadline : Option Deadline := none
  deriving DecidableEq, Repr

/-- An event as the environment offers it: its 4-bit ordinal (R58, D4) and the operand lines. -/
structure Offer where
  ordinal : BitVec 4
  operands : Operands
  deriving DecidableEq, Repr

/-- The words of an instruction: a frame's bytes on the wire, or an offer on the event port. -/
inductive Encoded where
  | wire (bytes : List Byte)
  | event (o : Offer)
  deriving DecidableEq, Repr

end Sys2Proof
end

