-- ==== Sys2Proof/WellFormed.lean ====
section
/-! DEFINITION. Which terms of `Instr` are instructions: the conditions rules R52, R55 and R58 put on operands alone.
(A condition on the state, such as the free space a chunk must fit, is the meaning's.) -/

namespace Sys2Proof

/-- The four headers with a row of their own (R55). -/
def isNamedHeader (x : Byte) : Bool :=
  x == Config.SOF || x == Config.ACK || x == Config.NAK || x == Config.CAN

/-- Operand conditions of R52 and R57 (a data frame has `nat(Length)` bytes after its Length byte), R55 (an unknown
header is none of the named ones), R58 and R93 (a chunk has 1 to RXBUF_CAP bytes) and R72, R74 (at least 2 bytes). -/
def Instr.wf : Instr → Bool
  | .data length body => body.length == length.toNat
  | .ack => true
  | .nak => true
  | .can => true
  | .unknown x => !isNamedHeader x
  | .reset => true
  | .write _ _ _ _ _ => true
  | .cancel _ => true
  | .timeout _ => true
  | .shutdown => true
  | .rxChunk chunk => decide (1 ≤ chunk.length) && decide (chunk.length ≤ Config.RXBUF_CAP)
  | .rxClose => true
  | .rxError => true
  | .rxExtract => true
  | .checksum b => decide (2 ≤ b.length)
  | .encode _ _ _ => true
  | .updateChecksum b => decide (2 ≤ b.length)
  | .decode _ => true
  | .boundary _ => true

end Sys2Proof
end

