-- ==== Sys2Proof/Decode.lean ====
section
/-! DEFINITION. From bytes to instructions and back. The wire side is the header map and the length rule of R55 and
R57; the event side is the ordinal column of R58. Both are total and reject by name. The encoder is written from the
same tables. -/

namespace Sys2Proof

/-- Why a string of bytes, or an offer, is no instruction. -/
inductive DecodeError where
  /-- No byte at all (R90: an empty queue needs more bytes). -/
  | emptyStream
  /-- A SOF header with no Length byte yet (R57, R90). -/
  | lengthMissing
  /-- A data frame some of whose bytes have not arrived (R90). -/
  | frameIncomplete
  /-- More bytes than the one frame has. -/
  | trailingBytes
  /-- The ordinals 0xE and 0xF: "unassigned; a harness that decodes ordinals refuses them" (R58). -/
  | unassignedOrdinal (ordinal : BitVec 4)
  deriving DecidableEq, Repr

/-- BOUNDARY (R90): where the first frame of `q` ends, read from `q[0]`, `q[1]` and `len(q)` alone. -/
def boundary (q : List Byte) : Boundary :=
  match q with
  | [] => .needMore
  | h :: t =>
    if h ≠ Config.SOF then .found 1
    else
      match t with
      | [] => .needMore
      | l :: _ => if q.length < l.toNat + 2 then .needMore else .found (l.toNat + 2)

/-- The instruction of a one-byte frame: the control rows of R55. -/
def controlInstr (h : Byte) : Instr :=
  if h = Config.ACK then .ack
  else if h = Config.NAK then .nak
  else if h = Config.CAN then .can
  else .unknown h

/-- The first frame of a byte string as an instruction, with the bytes after it (R55, R57). -/
def decodeWire (q : List Byte) : Except DecodeError (Instr × List Byte) :=
  match q with
  | [] => .error .emptyStream
  | h :: t =>
    if h ≠ Config.SOF then .ok (controlInstr h, t)
    else
      match t with
      | [] => .error .lengthMissing
      | l :: body =>
        if body.length < l.toNat then .error .frameIncomplete
        else .ok (.data l (body.take l.toNat), body.drop l.toNat)

/-- The event of an offer, by its ordinal (R58); it picks the operand lines that R58 lists for it. -/
def decodeOffer (o : Offer) : Except DecodeError Instr :=
  let p := o.operands
  match o.ordinal.toNat with
  | 0x0 => .ok .reset
  | 0x1 => .ok (.write p.messageType p.command p.bytes p.handle p.deadline)
  | 0x2 => .ok (.cancel p.handle)
  | 0x3 => .ok (.timeout p.handle)
  | 0x4 => .ok .shutdown
  | 0x5 => .ok (.rxChunk p.bytes)
  | 0x6 => .ok .rxClose
  | 0x7 => .ok .rxError
  | 0x8 => .ok .rxExtract
  | 0x9 => .ok (.checksum p.bytes)
  | 0xA => .ok (.encode p.messageType p.command p.bytes)
  | 0xB => .ok (.updateChecksum p.bytes)
  | 0xC => .ok (.decode p.bytes)
  | 0xD => .ok (.boundary p.bytes)
  | _ => .error (.unassignedOrdinal o.ordinal)

/-- An instruction from its words: exactly one frame, or one offer. -/
def decodeEncoded : Encoded → Except DecodeError Instr
  | .wire bytes =>
    match decodeWire bytes with
    | .ok (i, []) => .ok i
    | .ok (_, _ :: _) => .error .trailingBytes
    | .error e => .error e
  | .event o => decodeOffer o

/-- The words of an instruction: the layouts of R51 and R52 for the wire rows, the ordinals of R58 for the events. -/
def encode : Instr → Encoded
  | .data length body => .wire (Config.SOF :: length :: body)
  | .ack => .wire [Config.ACK]
  | .nak => .wire [Config.NAK]
  | .can => .wire [Config.CAN]
  | .unknown x => .wire [x]
  | .reset => .event { ordinal := 0x0#4, operands := {} }
  | .write mt cmd ps h d =>
    .event { ordinal := 0x1#4, operands := { messageType := mt, command := cmd, bytes := ps, handle := h, deadline := d } }
  | .cancel h => .event { ordinal := 0x2#4, operands := { handle := h } }
  | .timeout h => .event { ordinal := 0x3#4, operands := { handle := h } }
  | .shutdown => .event { ordinal := 0x4#4, operands := {} }
  | .rxChunk chunk => .event { ordinal := 0x5#4, operands := { bytes := chunk } }
  | .rxClose => .event { ordinal := 0x6#4, operands := {} }
  | .rxError => .event { ordinal := 0x7#4, operands := {} }
  | .rxExtract => .event { ordinal := 0x8#4, operands := {} }
  | .checksum b => .event { ordinal := 0x9#4, operands := { bytes := b } }
  | .encode mt cmd ps => .event { ordinal := 0xA#4, operands := { messageType := mt, command := cmd, bytes := ps } }
  | .updateChecksum b => .event { ordinal := 0xB#4, operands := { bytes := b } }
  | .decode b => .event { ordinal := 0xC#4, operands := { bytes := b } }
  | .boundary q => .event { ordinal := 0xD#4, operands := { bytes := q } }

/-- The number of bytes of the longest frame the boundary detector can cut (R53). -/
def longestFrame : Nat := Config.FRAME_MAX_WIRE

/-- The bytes of a table word, first byte first: `nbits` bits of `w` and then zeros, up to the longest frame. -/
def tableBytes (nbits w : Nat) : List Byte :=
  (List.range longestFrame).map fun k => BitVec.ofNat 8 ((w % 2 ^ nbits) / 2 ^ (8 * k))

/-- Whether a table word is read on the event port. The table has two spaces, a header byte and a 4-bit ordinal, and
one byte can be a row of each; a word that is an assigned ordinal with nothing above it is read as that event, every
other word as a wire frame (log 14). -/
def tableWordIsEvent (nbits w : Nat) : Bool :=
  decide (nbits < 8) || decide (w % 2 ^ nbits ≤ 0xD)

/-- The operand lines of a table word: all bits zero, the byte string the two bytes 00 00, the shortest on which every
event that takes one is defined (R58, R72; log 14). -/
def zeroOperands : Operands := { bytes := [0#8, 0#8] }

/-- The offer of a table word. -/
def tableOffer (w : Nat) : Offer := { ordinal := BitVec.ofNat 4 w, operands := zeroOperands }

/-- What the decoder reads from a word numbered as spec/opcode_table.json numbers it. -/
def decodeTableWord (nbits w : Nat) : Option Instr :=
  if tableWordIsEvent nbits w then
    match decodeOffer (tableOffer w) with
    | .ok i => some i
    | .error _ => none
  else
    match decodeWire (tableBytes nbits w) with
    | .ok (i, _) => some i
    | .error _ => none

end Sys2Proof
end

