-- ==== Sys2Proof/Machine/State.lean ====
section
/-! DEFINITION. The state of the unit (rules R10 to R15), the records it emits (R21), the environment's lists the step
reads (R22), the reasons a step can stop, and the state after reset (R24, R171). Plain data throughout. -/

namespace Sys2Proof.Machine

/-- `ENG_STATE` (R12). -/
inductive EngState where
  | idle
  | awaitingAck
  | stopped
  deriving DecidableEq, Repr

/-- `PERMIT` (R13). -/
inductive Permit where
  | free
  | held
  deriving DecidableEq, Repr

/-- Why the engine stopped (R15). `STOP_CAUSE` is an `Option` of it, `none` being `NoStop` (log 16). -/
inductive StopCause where
  | transportClosed
  | transportIoError
  | shutdown
  deriving DecidableEq, Repr

/-- The record of `PENDING` (R14). -/
structure PendingWrite where
  frame : List Byte
  handle : Handle
  deadline : Option Deadline
  deriving DecidableEq, Repr

/-- What ENCODE fails with (R73). -/
inductive EncodeError where
  | parametersTooLarge
  deriving DecidableEq, Repr

/-- What DECODE fails with (R75). -/
inductive FrameError where
  | frameTooSmall
  | frameTooBig
  | badHeader
  | lengthMismatch
  | checksumMismatch
  deriving DecidableEq, Repr

/-- The kinds of control frame (R51, R76). -/
inductive ControlKind where
  | ack
  | nak
  | can
  | unknown (x : Byte)
  deriving DecidableEq, Repr

/-- A decoded data frame (R75): the record of PUB (R21). -/
structure DataFrame where
  messageType : Byte
  command : Byte
  parameters : List Byte
  checksum : Byte
  deriving DecidableEq, Repr

/-- What DECODE returns when it succeeds (R75). -/
inductive Frame where
  | control (k : ControlKind)
  | data (d : DataFrame)
  deriving DecidableEq, Repr

/-- The outcome of one WRITE, as CPL carries it (R21). `nak` stands for the control code 0x15, `can` for 0x18. -/
inductive WriteOutcome where
  | delivered
  | nak
  | can
  | writeTimedOut
  | writeCanceled
  | transportClosed
  | transportIoError
  | parametersTooLarge
  deriving DecidableEq, Repr

/-- The records of LOG (R21, R161). -/
inductive LogRecord where
  | unexpectedAck
  | unknownControl (x : Byte)
  | unexpectedNakCan (code : Byte)
  | frameRejected (e : FrameError)
  deriving DecidableEq, Repr

/-- The eleven error kinds of R140, in its order. -/
inductive ErrorKind where
  | parametersTooLarge
  | frameTooSmall
  | frameTooBig
  | badHeader
  | lengthMismatch
  | checksumMismatch
  | unexpectedAck
  | writeTimedOut
  | writeCanceled
  | transportClosed
  | transportIoError
  deriving DecidableEq, Repr

/-- The result of a codec operation called from outside, on the codec port (R58, R70, D34). -/
inductive PortResult where
  | checksum (c : Byte)
  | encode (r : Except EncodeError (List Byte))
  | updateChecksum (b : List Byte)
  | decode (r : Except FrameError Frame)
  | boundary (r : Boundary)
  deriving DecidableEq, Repr

/-- One record on an output channel: a byte on TX, a completion on CPL, a frame on PUB, a record on LOG (R21), or a
result on the codec port (log 3). -/
inductive OutRecord where
  | tx (b : Byte)
  | cpl (handle : Handle) (outcome : WriteOutcome)
  | pub (d : DataFrame)
  | log (r : LogRecord)
  | port (r : PortResult)
  deriving DecidableEq, Repr

/-- The state. The first five fields are the unit's own and all it has (R10); the others are the model's, for what
surrounds the unit (R22, R25). -/
structure State where
  /-- `RXQ` (R11), oldest byte first. -/
  rxq : List Byte
  /-- `ENG_STATE` (R12). -/
  engState : EngState
  /-- `PERMIT` (R13). -/
  permit : Permit
  /-- `PENDING` (R14). -/
  pending : Option PendingWrite
  /-- `STOP_CAUSE` (R15); `none` is `NoStop`. -/
  stopCause : Option StopCause
  /-- Whether a RESET has happened: before the first one the unit takes no other step (R24, R171; log 2). -/
  resetSeen : Bool
  /-- The records emitted so far on all channels, in order (R9, R21; log 3). No rule reads it (R23 (d)). -/
  out : List OutRecord
  /-- The events the environment offers, the next one first (R22, R144; log 1). -/
  offers : List Offer
  /-- The transport's answers to the coming transmits, the next one first (R22, R112; log 4). -/
  answers : List TxAnswer
  /-- How many answers were drawn beyond `answers`: the argument of the free value (log 4). -/
  draws : Nat
  deriving DecidableEq, Repr

/-- The reasons the machine stops with a fault. There are none: "No error of any class makes a step fail half-way"
(R141); an error of the unit is a result, a record, or the engine's stop, each a next state. Safe: nothing raises it. -/
inductive Fault where
  deriving DecidableEq, Repr

/-- The reasons a step is refused. -/
inductive Refusal where
  /-- Raised by an arm of `exec` that has no meaning yet. Safe. -/
  | notModelled (mnemonic : String)
  /-- Raised by CHECKSUM on fewer than 2 bytes: "a model refuses such a call" (R72). Safe. -/
  | checksumTooShort
  /-- Raised by UPDATE_CHECKSUM on fewer than 2 bytes: "refused, as for CHECKSUM" (R74). Safe. -/
  | updateChecksumTooShort
  /-- Raised by `step` on an offer that is no event: the ordinals 0xE and 0xF, "a harness that decodes ordinals refuses
  them" (R58). Safe. -/
  | undecodable (e : DecodeError)
  /-- Raised by `step` on any event but RESET before the first RESET: "a model gives the unit no step but RESET" (R24).
  Safe. -/
  | beforeFirstReset
  deriving DecidableEq, Repr

/-- The state right after RESET (R24, R171), with nothing offered, nothing answered and nothing emitted (the model's
own fields: DESIGN CHOICE, log 1, 3, 4). -/
def State.reset : State where
  rxq := []
  engState := .idle
  permit := .free
  pending := none
  stopCause := none
  resetSeen := true
  out := []
  offers := []
  answers := []
  draws := 0

end Sys2Proof.Machine
end

