-- ==== Sys2Proof/Machine/Operands.lean ====
section
/-! DEFINITION. The operand forms: byte strings read and built by offset (rules R30, R51 to R53, R71), and the pure
codec functions over them (R70 to R82, R96). -/

namespace Sys2Proof.Machine

/-- Bitwise exclusive-or of two bytes (R71). -/
def xor8 (a b : Byte) : Byte := a ^^^ b

/-- Bitwise complement of a byte, `255 - nat(a)` (R71). -/
def not8 (a : Byte) : Byte := ~~~a

/-- The span a checksum covers: `b[1 .. n-2]` inclusive, without the header and without the last byte (R72). -/
def checksumSpan (b : List Byte) : List Byte := b.tail.dropLast

/-- The exclusive-or of a run of bytes (R72). -/
def xorFold (bs : List Byte) : Byte := bs.foldl xor8 0x00#8

/-- CHECKSUM (R72), meaningful for at least 2 bytes. -/
def checksum (b : List Byte) : Byte := not8 (xorFold (checksumSpan b))

/-- UPDATE_CHECKSUM (R74), meaningful for at least 2 bytes: the last byte becomes the checksum. -/
def updateChecksum (b : List Byte) : List Byte := b.dropLast ++ [checksum b]

/-- ENCODE (R73): the layout of R52 with the checksum byte zeroed (D5; log 8). -/
def encodeFrame (messageType command : Byte) (parameters : List Byte) : Except EncodeError (List Byte) :=
  if Config.PARAM_MAX < parameters.length then .error .parametersTooLarge
  else
    .ok ([Config.SOF, BitVec.ofNat 8 (parameters.length + 3), messageType, command] ++ parameters ++ [0x00#8])

/-- FRAME (R78): what WRITE puts on the wire. -/
def frameBytes (messageType command : Byte) (parameters : List Byte) : Except EncodeError (List Byte) :=
  match encodeFrame messageType command parameters with
  | .ok b => .ok (updateChecksum b)
  | .error e => .error e

/-- KIND (R76): the classification of a one-byte frame. -/
def kind (x : Byte) : ControlKind :=
  if x = Config.ACK then .ack
  else if x = Config.NAK then .nak
  else if x = Config.CAN then .can
  else .unknown x

/-- The byte at an offset of a frame (R30, R52); 0x00 past the end, where no rule reads. -/
def byteAt (b : List Byte) (i : Nat) : Byte := b.getD i 0x00#8

/-- The parameters of a data frame: offsets 4 to n-2 (R52, R53). -/
def parametersOf (b : List Byte) : List Byte := (b.drop 4).dropLast

/-- The fields of a data frame by their offsets (R52, R75). -/
def fieldsOf (b : List Byte) : DataFrame where
  messageType := byteAt b 2
  command := byteAt b 3
  parameters := parametersOf b
  checksum := byteAt b (b.length - 1)

/-- DECODE (R75), its tests in the order of R77. -/
def decodeFrame (b : List Byte) : Except FrameError Frame :=
  if b.length = 0 then .error .frameTooSmall
  else if b.length = 1 then .ok (.control (kind (byteAt b 0)))
  else if byteAt b 0 ≠ Config.SOF then .error .badHeader
  else if b.length < Config.FRAME_MIN then .error .frameTooSmall
  else if Config.FRAME_BIG < b.length then .error .frameTooBig
  else if (byteAt b 1).toNat ≠ b.length - 2 then .error .lengthMismatch
  else if byteAt b (b.length - 1) ≠ checksum b then .error .checksumMismatch
  else .ok (.data (fieldsOf b))

/-- VALID (R79): DECODE returns a DataFrame. -/
def valid (b : List Byte) : Bool :=
  match decodeFrame b with
  | .ok (.data _) => true
  | .ok (.control _) => false
  | .error _ => false

/-- FRAMES with a bound on the number of frames, so that it evaluates (R96). -/
def framesUpTo : Nat → List Byte → List (List Byte)
  | 0, _ => []
  | k + 1, s =>
    match boundary s with
    | .needMore => []
    | .found n => s.take n :: framesUpTo k (s.drop n)

/-- FRAMES (R96): the frames BOUNDARY cuts from a byte string; a frame has at least one byte, so the string's length
bounds their number. -/
def frames (s : List Byte) : List (List Byte) := framesUpTo s.length s

/-- The error kind of a DECODE failure (R140). -/
def FrameError.kind : FrameError → ErrorKind
  | .frameTooSmall => .frameTooSmall
  | .frameTooBig => .frameTooBig
  | .badHeader => .badHeader
  | .lengthMismatch => .lengthMismatch
  | .checksumMismatch => .checksumMismatch

/-- The error kind of an ENCODE failure (R140). -/
def EncodeError.kind : EncodeError → ErrorKind
  | .parametersTooLarge => .parametersTooLarge

/-- The error kind a write outcome carries; `Delivered`, `Nak` and `Can` are no error kinds (R140). -/
def WriteOutcome.kind : WriteOutcome → Option ErrorKind
  | .delivered => none
  | .nak => none
  | .can => none
  | .writeTimedOut => some .writeTimedOut
  | .writeCanceled => some .writeCanceled
  | .transportClosed => some .transportClosed
  | .transportIoError => some .transportIoError
  | .parametersTooLarge => some .parametersTooLarge

/-- The control code a negative outcome carries (R21): 0x15 for `Nak`, 0x18 for `Can`. -/
def WriteOutcome.controlCode : WriteOutcome → Option Byte
  | .nak => some Config.NAK
  | .can => some Config.CAN
  | .delivered => none
  | .writeTimedOut => none
  | .writeCanceled => none
  | .transportClosed => none
  | .transportIoError => none
  | .parametersTooLarge => none

/-- The error kind of a LOG record (R140): the stray ACK, and the kind of a rejected frame. -/
def LogRecord.kind : LogRecord → Option ErrorKind
  | .unexpectedAck => some .unexpectedAck
  | .unknownControl _ => none
  | .unexpectedNakCan _ => none
  | .frameRejected e => some e.kind

/-- The number of an error kind, for harnesses that need one (R140, D22). -/
def ErrorKind.ordinal : ErrorKind → Nat
  | .parametersTooLarge => 1
  | .frameTooSmall => 2
  | .frameTooBig => 3
  | .badHeader => 4
  | .lengthMismatch => 5
  | .checksumMismatch => 6
  | .unexpectedAck => 7
  | .writeTimedOut => 8
  | .writeCanceled => 9
  | .transportClosed => 10
  | .transportIoError => 11

end Sys2Proof.Machine
end

