-- ==== Sys2Proof/Machine/Flags.lean ====
section
/-! DEFINITION. The unit has no flags; it has three signals, each a pure function of the state (rule R19), and the
register-level codes of its control state (R12). -/

namespace Sys2Proof.Machine

/-- Whether a byte string has a complete frame at its head (R90). -/
def hasFrame (q : List Byte) : Bool :=
  match boundary q with
  | .needMore => false
  | .found _ => true

/-- Whether the read loop runs: `ENG_STATE != Stopped` (R12, R91). -/
def State.running (s : State) : Bool :=
  match s.engState with
  | .idle => true
  | .awaitingAck => true
  | .stopped => false

/-- `rx_ready`: the unit takes transport bytes (R19). -/
def State.rxReady (s : State) : Bool := s.running && !hasFrame s.rxq

/-- `frame_avail`: RX_EXTRACT is enabled (R19). -/
def State.frameAvail (s : State) : Bool := s.running && hasFrame s.rxq

/-- `wr_ready`: a WRITE is accepted (R19). -/
def State.wrReady (s : State) : Bool :=
  match s.permit with
  | .free => true
  | .held => false

/-- Whether a chunk fits: 1 to `RXBUF_CAP - len(RXQ)` bytes (R93). -/
def State.chunkFits (s : State) (chunk : List Byte) : Bool :=
  decide (1 ≤ chunk.length) && decide (s.rxq.length + chunk.length ≤ Config.RXBUF_CAP)

/-- The ordinal of an engine state (R12, D4). -/
def EngState.ordinal : EngState → Nat
  | .idle => 0
  | .awaitingAck => 1
  | .stopped => 2

end Sys2Proof.Machine
end

