-- ==== Sys2Proof/Machine/Ops.lean ====
section
/-! DEFINITION. The shared operations: emitting records (rule R8), the transport write (R112), the two ways a pending
write ends (R113 and the stop R150, the unit's only trap entry), the queue (R92, R94), and what the read loop does with
an extracted frame (R115 to R121). -/

namespace Sys2Proof.Machine

/-- `emit CH(record)` (R8). -/
def State.emit (s : State) (r : OutRecord) : State := { s with out := s.out ++ [r] }

/-- `emit TX(x)` for every byte of a string, in order (R112). -/
def State.emitTx (s : State) (bs : List Byte) : State := { s with out := s.out ++ bs.map OutRecord.tx }

/-- The transport's answer to the next transmit: the environment's next choice, or a free value (R112; log 4). -/
def State.txAnswer (s : State) : TxAnswer :=
  match s.answers with
  | a :: _ => a
  | [] => Config.freeTxAnswer s.draws

/-- The state once that answer is used up (R8: one `draw` per occurrence). -/
def State.afterDraw (s : State) : State :=
  match s.answers with
  | _ :: rest => { s with answers := rest }
  | [] => { s with draws := s.draws + 1 }

/-- `StopOutcome` (R150): what a write gets from a stop. -/
def stopOutcome : StopCause → WriteOutcome
  | .transportClosed => .transportClosed
  | .transportIoError => .transportIoError
  | .shutdown => .writeCanceled

/-- The completion record a pending write leaves behind, if one is pending. -/
def State.completePending (s : State) (o : WriteOutcome) : State :=
  match s.pending with
  | some p => s.emit (.cpl p.handle o)
  | none => s

/-- `Resolve(outcome)` (R113). It requires a pending write; without one nothing changes. -/
def resolve (o : WriteOutcome) (s : State) : State :=
  match s.pending with
  | some p => { s.emit (.cpl p.handle o) with pending := none, permit := .free, engState := .idle }
  | none => s

/-- `Stop(cause)` (R150): the only trap entry. `RXQ` is kept. -/
def stop (c : StopCause) (s : State) : State :=
  { s.completePending (stopOutcome c) with
    pending := none, permit := .free, engState := .stopped, stopCause := some c }

/-- `Transmit(bs)` (R112), and what the calling rule does after it when it answers Ok. On a failure the first `j` bytes
are on TX, the engine stops, and the calling rule does nothing more (R151). -/
def transmitThen (bs : List Byte) (onOk : State → State) (s : State) : State :=
  match s.txAnswer with
  | .ok => onOk (s.afterDraw.emitTx bs)
  | .ioError j => stop .transportIoError (s.afterDraw.emitTx (bs.take j))
  | .closed j => stop .transportClosed (s.afterDraw.emitTx (bs.take j))

/-- `Transmit(bs)` as the last thing a rule does. -/
def transmit (bs : List Byte) (s : State) : State := transmitThen bs id s

/-- The queue with a chunk at its tail (R92). -/
def State.appendChunk (s : State) (chunk : List Byte) : State := { s with rxq := s.rxq ++ chunk }

/-- The queue without its first `n` bytes, the rest in order (R94). -/
def State.dropFrame (s : State) (n : Nat) : State := { s with rxq := s.rxq.drop n }

/-- WRITE's registration: the permit taken, the pending write recorded, `AwaitingAck` entered (R110). -/
def State.registerWrite (s : State) (p : PendingWrite) : State :=
  { s with permit := .held, pending := some p, engState := .awaitingAck }

/-- DISPATCH of ACK (R116). -/
def dispatchAck (s : State) : State :=
  match s.pending with
  | some _ => resolve .delivered s
  | none => s.emit (.log .unexpectedAck)

/-- DISPATCH of NAK (R117). -/
def dispatchNak (s : State) : State :=
  match s.pending with
  | some _ => resolve .nak s
  | none => s.emit (.log (.unexpectedNakCan Config.NAK))

/-- DISPATCH of CAN (R118). -/
def dispatchCan (s : State) : State :=
  match s.pending with
  | some _ => resolve .can s
  | none => s.emit (.log (.unexpectedNakCan Config.CAN))

/-- DISPATCH of an unknown control byte (R119). -/
def dispatchUnknown (x : Byte) (s : State) : State := s.emit (.log (.unknownControl x))

/-- DISPATCH of a valid data frame (R120): reply ACK, then publish. -/
def dispatchData (d : DataFrame) (s : State) : State :=
  transmitThen [Config.ACK] (fun t => t.emit (.pub d)) s

/-- DISPATCH of an invalid data frame (R121): log the kind, reply NAK. -/
def dispatchError (e : FrameError) (s : State) : State :=
  transmit [Config.NAK] (s.emit (.log (.frameRejected e)))

/-- DISPATCH (R115): one rule by the shape of DECODE's result. -/
def dispatch (r : Except FrameError Frame) (s : State) : State :=
  match r with
  | .ok (.control .ack) => dispatchAck s
  | .ok (.control .nak) => dispatchNak s
  | .ok (.control .can) => dispatchCan s
  | .ok (.control (.unknown x)) => dispatchUnknown x s
  | .ok (.data d) => dispatchData d s
  | .error e => dispatchError e s

/-- A step of the unit that is taken when its condition holds. An event that is not enabled is not taken: nothing
changes (R144; log 5). -/
def whenEnabled (enabled : Bool) (act : State → State) (s : State) : Host.Outcome State Fault Refusal :=
  .next (if enabled then act s else s)

end Sys2Proof.Machine
end

