-- ==== Sys2Proof/Machine/Codec.lean ====
section
/-! DEFINITION. The codec port (rules R70, R72 to R77, R90, D34): pure functions of the operands; the result is a record
on the port and nothing else changes. -/

namespace Sys2Proof.Machine

/-- CHECKSUM (R72); fewer than 2 bytes: refused (D10). -/
def execChecksum (b : List Byte) (s : State) : Host.Outcome State Fault Refusal :=
  if b.length < 2 then .refused .checksumTooShort else .next (s.emit (.port (.checksum (checksum b))))

/-- ENCODE (R73). -/
def execEncode (messageType command : Byte) (parameters : List Byte) (s : State) :
    Host.Outcome State Fault Refusal :=
  .next (s.emit (.port (.encode (encodeFrame messageType command parameters))))

/-- UPDATE_CHECKSUM (R74); fewer than 2 bytes: refused. -/
def execUpdateChecksum (b : List Byte) (s : State) : Host.Outcome State Fault Refusal :=
  if b.length < 2 then .refused .updateChecksumTooShort
  else .next (s.emit (.port (.updateChecksum (updateChecksum b))))

/-- DECODE (R75). -/
def execDecode (b : List Byte) (s : State) : Host.Outcome State Fault Refusal :=
  .next (s.emit (.port (.decode (decodeFrame b))))

/-- BOUNDARY (R90). -/
def execBoundary (q : List Byte) (s : State) : Host.Outcome State Fault Refusal :=
  .next (s.emit (.port (.boundary (boundary q))))

end Sys2Proof.Machine
end

