-- ==== Sys2Proof/Machine/Engine.lean ====
section
/-! DEFINITION. The write path and the host's events (rules R110, R111, R114, R123 to R125, R170). -/

namespace Sys2Proof.Machine

/-- RESET (R170), in every state; it emits nothing. -/
def execReset (s : State) : Host.Outcome State Fault Refusal :=
  .next { s with
    rxq := [], engState := .idle, permit := .free, pending := none, stopCause := none, resetSeen := true }

/-- WRITE from `Idle` with the permit free: transmitted (R110), or completed as too large (R114). -/
def acceptWrite (messageType command : Byte) (parameters : List Byte) (handle : Handle)
    (deadline : Option Deadline) (s : State) : State :=
  match frameBytes messageType command parameters with
  | .ok f => transmit f (s.registerWrite { frame := f, handle := handle, deadline := deadline })
  | .error .parametersTooLarge => s.emit (.cpl handle .parametersTooLarge)

/-- WRITE while stopped: completed with the outcome of the stop (R111). -/
def refuseWrite (handle : Handle) (s : State) : State :=
  match s.stopCause with
  | some c => s.emit (.cpl handle (stopOutcome c))
  | none => s

/-- WRITE with the permit free: `Stopped` is tested before the parameter count (R146). `AwaitingAck` with a free permit
breaks R16 and meets no rule's requirement (log 10). -/
def writeWithPermit (messageType command : Byte) (parameters : List Byte) (handle : Handle)
    (deadline : Option Deadline) (s : State) : State :=
  match s.engState with
  | .idle => acceptWrite messageType command parameters handle deadline s
  | .stopped => refuseWrite handle s
  | .awaitingAck => s

/-- WRITE (R110, R111, R114), accepted only while the permit is free. -/
def execWrite (messageType command : Byte) (parameters : List Byte) (handle : Handle)
    (deadline : Option Deadline) (s : State) : Host.Outcome State Fault Refusal :=
  whenEnabled s.wrReady (writeWithPermit messageType command parameters handle deadline) s

/-- Whether a write with this handle is pending (R123, R124). -/
def State.pendingHas (s : State) (handle : Handle) : Bool :=
  match s.pending with
  | some p => decide (p.handle = handle)
  | none => false

/-- Whether the pending write has a deadline (R123). -/
def State.pendingHasDeadline (s : State) : Bool :=
  match s.pending with
  | some p => p.deadline.isSome
  | none => false

/-- CANCEL (R124). -/
def execCancel (handle : Handle) (s : State) : Host.Outcome State Fault Refusal :=
  whenEnabled (s.pendingHas handle) (resolve .writeCanceled) s

/-- TIMEOUT (R123). -/
def execTimeout (handle : Handle) (s : State) : Host.Outcome State Fault Refusal :=
  whenEnabled (s.pendingHas handle && s.pendingHasDeadline) (resolve .writeTimedOut) s

/-- SHUTDOWN (R125). -/
def execShutdown (s : State) : Host.Outcome State Fault Refusal :=
  whenEnabled s.running (stop .shutdown) s

end Sys2Proof.Machine
end

