-- ==== Sys2Proof/Machine/Reader.lean ====
section
/-! DEFINITION. The RX agent's events (rules R91 to R94, R126, R127). -/

namespace Sys2Proof.Machine

/-- RX_CHUNK (R92, R93). -/
def execRxChunk (chunk : List Byte) (s : State) : Host.Outcome State Fault Refusal :=
  whenEnabled (s.rxReady && s.chunkFits chunk) (fun t => t.appendChunk chunk) s

/-- RX_CLOSE (R126). -/
def execRxClose (s : State) : Host.Outcome State Fault Refusal :=
  whenEnabled s.rxReady (stop .transportClosed) s

/-- RX_ERROR (R127). -/
def execRxError (s : State) : Host.Outcome State Fault Refusal :=
  whenEnabled s.rxReady (stop .transportIoError) s

/-- The first frame removed from the queue, decoded and dispatched (R94). -/
def extractFrame (s : State) : State :=
  match boundary s.rxq with
  | .found n => dispatch (decodeFrame (s.rxq.take n)) (s.dropFrame n)
  | .needMore => s

/-- RX_EXTRACT (R94). -/
def execRxExtract (s : State) : Host.Outcome State Fault Refusal :=
  whenEnabled s.frameAvail extractFrame s

end Sys2Proof.Machine
end

