-- ==== Sys2Proof/Machine/Wire.lean ====
section
/-! DEFINITION. The wire rows: what the read loop does with one extracted frame (rules R115 to R121). The frame has left
`RXQ` already (R94); DISPATCH runs only while the engine is not stopped (R115; log 15). -/

namespace Sys2Proof.Machine

/-- DATA (R115, R120, R121): DECODE decides between the two. -/
def execData (length : Byte) (body : List Byte) (s : State) : Host.Outcome State Fault Refusal :=
  whenEnabled s.running (dispatch (decodeFrame (Config.SOF :: length :: body))) s

/-- ACK (R116). -/
def execAck (s : State) : Host.Outcome State Fault Refusal := whenEnabled s.running dispatchAck s

/-- NAK (R117). -/
def execNak (s : State) : Host.Outcome State Fault Refusal := whenEnabled s.running dispatchNak s

/-- CAN (R118). -/
def execCan (s : State) : Host.Outcome State Fault Refusal := whenEnabled s.running dispatchCan s

/-- UNKNOWN (R119). -/
def execUnknown (x : Byte) (s : State) : Host.Outcome State Fault Refusal :=
  whenEnabled s.running (dispatchUnknown x) s

end Sys2Proof.Machine
end

