-- ==== Sys2Proof/Machine/Dispatch.lean ====
section
/-! DEFINITION. One arm per constructor of `Instr`: the wire rows (rule R115), then the events (R58). -/

namespace Sys2Proof.Machine

/-- The meaning of one instruction in one state. -/
def exec (i : Instr) (s : State) : Host.Outcome State Fault Refusal :=
  match i with
  | .data length body => Sys2Proof.Machine.execData length body s
  | .ack => Sys2Proof.Machine.execAck s
  | .nak => Sys2Proof.Machine.execNak s
  | .can => Sys2Proof.Machine.execCan s
  | .unknown x => Sys2Proof.Machine.execUnknown x s
  | .reset => Sys2Proof.Machine.execReset s
  | .write mt cmd ps h d => Sys2Proof.Machine.execWrite mt cmd ps h d s
  | .cancel h => Sys2Proof.Machine.execCancel h s
  | .timeout h => Sys2Proof.Machine.execTimeout h s
  | .shutdown => Sys2Proof.Machine.execShutdown s
  | .rxChunk chunk => Sys2Proof.Machine.execRxChunk chunk s
  | .rxClose => Sys2Proof.Machine.execRxClose s
  | .rxError => Sys2Proof.Machine.execRxError s
  | .rxExtract => Sys2Proof.Machine.execRxExtract s
  | .checksum b => Sys2Proof.Machine.execChecksum b s
  | .encode mt cmd ps => Sys2Proof.Machine.execEncode mt cmd ps s
  | .updateChecksum b => Sys2Proof.Machine.execUpdateChecksum b s
  | .decode b => Sys2Proof.Machine.execDecode b s
  | .boundary q => Sys2Proof.Machine.execBoundary q s

end Sys2Proof.Machine
end

