-- ==== Sys2Proof/Machine/Fetch.lean ====
section
/-! DEFINITION. Which event the next step processes (rules R18, R22, R144): the environment's next offer; with nothing
offered, the unit's own RX_EXTRACT when a frame waits; otherwise none. -/

namespace Sys2Proof.Machine

/-- What the next step has to process. -/
inductive Fetched where
  /-- An event, and the state once the environment's offer of it is used up. -/
  | event (i : Instr) (s : State)
  /-- Nothing is offered and the unit has no step of its own: it idles (R159; log 13). -/
  | idle
  /-- The offer is no event. -/
  | undecodable (e : DecodeError)
  deriving DecidableEq, Repr

/-- The state without the environment's first offer. -/
def State.popOffer (s : State) : State := { s with offers := s.offers.tail }

/-- Whether the unit takes RX_EXTRACT by itself: nothing is offered, a RESET has happened and a frame waits
(R18, R94, R181; log 13). -/
def State.ownStep (s : State) : Bool := s.resetSeen && s.frameAvail

/-- The event of the next step. -/
def fetch (s : State) : Fetched :=
  match s.offers with
  | o :: _ =>
    match decodeOffer o with
    | .ok i => .event i s.popOffer
    | .error e => .undecodable e
  | [] => if s.ownStep then .event .rxExtract s else .idle

/-- Whether the unit takes this event at all: before the first RESET, only RESET (R24, U13; log 2). -/
def State.admits (s : State) (i : Instr) : Bool := s.resetSeen || i == .reset

/-- The frame written over the head of the receive queue, with the environment offering its extraction. -/
def State.withWireFrame (s : State) (frame : List Byte) : State :=
  { s with rxq := frame ++ s.rxq.drop frame.length, offers := { ordinal := 0x8#4, operands := {} } :: s.offers }

/-- The environment offering this event next. -/
def State.withOffer (s : State) (o : Offer) : State := { s with offers := o :: s.offers }

/-- The first frame of a table word's bytes (R57). -/
def tableFrame (nbits w : Nat) : List Byte :=
  match boundary (tableBytes nbits w) with
  | .found n => (tableBytes nbits w).take n
  | .needMore => tableBytes nbits w

end Sys2Proof.Machine
end

