-- ==== Sys2Proof/Machine/Step.lean ====
section
/-! DEFINITION. One step: the complete processing of one event (rule R9). -/

namespace Sys2Proof.Machine

/-- One step of the unit. -/
def step (s : State) : Host.Outcome State Fault Refusal :=
  match fetch s with
  | .event i t => if s.admits i then exec i t else .refused .beforeFirstReset
  | .idle => .next s
  | .undecodable e => .refused (.undecodable e)

/-- `s` with a table word where the next step fetches: the event at the head of the offers, or the frame in the receive
queue with its extraction offered (log 12). -/
def State.withFetchWord (s : State) (nbits w : Nat) : State :=
  if tableWordIsEvent nbits w then s.withOffer (tableOffer w) else s.withWireFrame (tableFrame nbits w)

end Sys2Proof.Machine
end

