-- ==== Sys2Proof/Safety.lean ====
section
/-! DEFINITION. The terms claims use: the unit's invariants (rules R14, R16), what a step emits, and the states the unit
can be in. -/

namespace Sys2Proof.Machine

/-- The pending frame is a valid data frame of 5 to 257 bytes (R14). -/
def pendingFrameOk (p : Option PendingWrite) : Bool :=
  match p with
  | some w =>
    valid w.frame && decide (Config.FRAME_MIN ≤ w.frame.length) && decide (w.frame.length ≤ Config.FRAME_MAX_WIRE)
  | none => true

/-- What holds of the unit after the first RESET: the four invariants of R16, and R14's range of the pending frame. -/
abbrev UnitInv (s : State) : Prop :=
  s.resetSeen = true ∧
  (s.pending.isSome = true ↔ s.engState = .awaitingAck) ∧
  (s.permit = .held ↔ s.engState = .awaitingAck) ∧
  (s.stopCause.isSome = true ↔ s.engState = .stopped) ∧
  s.rxq.length ≤ Config.RXBUF_CAP ∧
  pendingFrameOk s.pending = true

/-- The byte a record puts on TX, if it is a TX record (R21). -/
def OutRecord.tx? : OutRecord → Option Byte
  | .tx b => some b
  | .cpl _ _ => none
  | .pub _ => none
  | .log _ => none
  | .port _ => none

/-- The completion a record carries, if it is a CPL record (R21). -/
def OutRecord.cpl? : OutRecord → Option (Handle × WriteOutcome)
  | .cpl h o => some (h, o)
  | .tx _ => none
  | .pub _ => none
  | .log _ => none
  | .port _ => none

/-- The frame a record publishes, if it is a PUB record (R21). -/
def OutRecord.pub? : OutRecord → Option DataFrame
  | .pub d => some d
  | .tx _ => none
  | .cpl _ _ => none
  | .log _ => none
  | .port _ => none

/-- The record a LOG record carries (R21). -/
def OutRecord.log? : OutRecord → Option LogRecord
  | .log r => some r
  | .tx _ => none
  | .cpl _ _ => none
  | .pub _ => none
  | .port _ => none

/-- The channel TX of a list of records (R21). -/
def txOf (out : List OutRecord) : List Byte := out.filterMap OutRecord.tx?
/-- The channel CPL of a list of records (R21). -/
def cplOf (out : List OutRecord) : List (Handle × WriteOutcome) := out.filterMap OutRecord.cpl?
/-- The channel PUB of a list of records (R21). -/
def pubOf (out : List OutRecord) : List DataFrame := out.filterMap OutRecord.pub?
/-- The channel LOG of a list of records (R21). -/
def logOf (out : List OutRecord) : List LogRecord := out.filterMap OutRecord.log?

/-- The states the unit can be in after a RESET, whatever the environment has offered (R9, R147): any event may be
processed next, and the environment's own lists may hold anything. -/
inductive Reachable : State → Prop where
  | reset (offers : List Offer) (answers : List TxAnswer) (draws : Nat) :
      Reachable { State.reset with offers := offers, answers := answers, draws := draws }
  | event {s t : State} (i : Instr) (h : Reachable s) (hstep : exec i s = .next t) : Reachable t
  | environment {s : State} (offers : List Offer) (answers : List TxAnswer) (h : Reachable s) :
      Reachable { s with offers := offers, answers := answers }

/-- Whether an instruction is one of the three that write `RXQ` (R11). -/
def writesQueue : Instr → Bool
  | .reset => true
  | .rxChunk _ => true
  | .rxExtract => true
  | .data _ _ => false
  | .ack => false
  | .nak => false
  | .can => false
  | .unknown _ => false
  | .write _ _ _ _ _ => false
  | .cancel _ => false
  | .timeout _ => false
  | .shutdown => false
  | .rxClose => false
  | .rxError => false
  | .checksum _ => false
  | .encode _ _ _ => false
  | .updateChecksum _ => false
  | .decode _ => false
  | .boundary _ => false

/-- A run without RESET, seen by the reader: `ReaderRun s bs fs t` says that it goes from `s` to `t`, that the chunks it
took are `bs` when joined, and that the byte strings it extracted are `fs`, in order (R96). Any other event may fall in
between. -/
inductive ReaderRun : State → List Byte → List (List Byte) → State → Prop where
  | done (s : State) : ReaderRun s [] [] s
  | chunk {s t u : State} {c bs : List Byte} {fs : List (List Byte)}
      (ready : s.rxReady = true) (fits : s.chunkFits c = true)
      (hstep : exec (.rxChunk c) s = .next t) (rest : ReaderRun t bs fs u) : ReaderRun s (c ++ bs) fs u
  | extract {s t u : State} {n : Nat} {bs : List Byte} {fs : List (List Byte)}
      (avail : s.frameAvail = true) (found : boundary s.rxq = .found n)
      (hstep : exec .rxExtract s = .next t) (rest : ReaderRun t bs fs u) :
      ReaderRun s bs (s.rxq.take n :: fs) u
  | other {s t u : State} {i : Instr} {bs : List Byte} {fs : List (List Byte)}
      (hi : writesQueue i = false) (hstep : exec i s = .next t) (rest : ReaderRun t bs fs u) :
      ReaderRun s bs fs u

/-- A run of events, none of them RESET: `Steps s is t` goes from `s` to `t` by the events `is`, in order (R9). -/
inductive Steps : State → List Instr → State → Prop where
  | done (s : State) : Steps s [] s
  | event {s t u : State} {i : Instr} {is : List Instr} (hi : i ≠ .reset)
      (hstep : exec i s = .next t) (rest : Steps t is u) : Steps s (i :: is) u

/-- The handles whose writes this event accepts in this state (R110, R111, R114: a WRITE while the permit is free). -/
def acceptedHandles (i : Instr) (s : State) : List Handle :=
  match i with
  | .write _ _ _ h _ => if s.permit = .free then [h] else []
  | .reset => []
  | .rxChunk _ => []
  | .rxExtract => []
  | .data _ _ => []
  | .ack => []
  | .nak => []
  | .can => []
  | .unknown _ => []
  | .cancel _ => []
  | .timeout _ => []
  | .shutdown => []
  | .rxClose => []
  | .rxError => []
  | .checksum _ => []
  | .encode _ _ _ => []
  | .updateChecksum _ => []
  | .decode _ => []
  | .boundary _ => []

/-- The handle of the pending write, if there is one (R14). -/
def pendingHandles (s : State) : List Handle := (s.pending.map PendingWrite.handle).toList

/-- The completion a stop with this outcome leaves on CPL (R150). -/
def completionOf (p : Option PendingWrite) (o : WriteOutcome) : List OutRecord :=
  (p.map fun w => OutRecord.cpl w.handle o).toList

/-- A safe step: the unit goes on. There is no fault (R141); a refusal is the one other way a step ends. -/
def SafeStep (s : State) : Prop := ∃ t, step s = .next t

end Sys2Proof.Machine
end

