-- ==== Sys2Proof/Certificates/Slice0/Obligations.lean ====
section
/-! DEFINITION. The statements for the provers. Each docstring names the rule of the spec it formalises; where a clause
rests on a choice (the spec's own decision D<n>, or the model's log entry), it says so. -/

open Sys2Proof Sys2Proof.Machine

/-! ### Encoding -/

/-- Decode and encode agree for every well-formed instruction, wire frame or event (R51, R52, R55, R58; the ordinals are
the spec's own, D4, and the operand lines the model's, log 9). -/
def Obligations.DecodeInvertsEncode : Prop :=
  ∀ i : Instr, i.wf = true → decodeEncoded (encode i) = .ok i

/-- A frame that decodes is well-formed, and its encoding is exactly the bytes BOUNDARY cuts (R52, R57, R90). -/
def Obligations.WireDecodingReadsTheBoundary : Prop :=
  ∀ (q rest : List Byte) (i : Instr), decodeWire q = .ok (i, rest) →
    i.wf = true ∧ ∃ n, boundary q = .found n ∧ encode i = .wire (q.take n) ∧ rest = q.drop n

/-- Words written out from the spec: the header bytes of R55, the example frame of the layout R52, ordinals of R58. -/
def Obligations.SpecWordsDecode : Prop :=
  decodeWire [0x06#8] = .ok (.ack, []) ∧ decodeWire [0x15#8] = .ok (.nak, []) ∧
  decodeWire [0x18#8] = .ok (.can, []) ∧ decodeWire [0x7F#8] = .ok (.unknown 0x7F#8, []) ∧
  decodeWire [0x01#8, 0x03#8, 0x00#8, 0x20#8, 0xDC#8] = .ok (.data 0x03#8 [0x00#8, 0x20#8, 0xDC#8], []) ∧
  decodeOffer { ordinal := 0x0#4, operands := {} } = .ok .reset ∧
  decodeOffer { ordinal := 0x3#4, operands := { handle := ⟨7⟩ } } = .ok (.timeout ⟨7⟩) ∧
  decodeOffer { ordinal := 0x8#4, operands := {} } = .ok .rxExtract ∧
  decodeOffer { ordinal := 0xD#4, operands := { bytes := [0x06#8] } } = .ok (.boundary [0x06#8])

/-- R55: the first byte of a frame selects its kind, and all 256 values are assigned. -/
def Obligations.HeaderByteSelectsTheKind : Prop :=
  ∀ (x : Byte) (rest : List Byte),
    (x = 0x06#8 → decodeWire (x :: rest) = .ok (.ack, rest)) ∧
    (x = 0x15#8 → decodeWire (x :: rest) = .ok (.nak, rest)) ∧
    (x = 0x18#8 → decodeWire (x :: rest) = .ok (.can, rest)) ∧
    (x ≠ 0x01#8 → x ≠ 0x06#8 → x ≠ 0x15#8 → x ≠ 0x18#8 → decodeWire (x :: rest) = .ok (.unknown x, rest)) ∧
    (x = 0x01#8 → ∀ (l : Byte) (body : List Byte), body.length = l.toNat →
      decodeWire (x :: l :: (body ++ rest)) = .ok (.data l body, rest))

/-- R57: a header other than 0x01 has length 1, known at once; after 0x01 the length is `nat(next byte) + 2`. -/
def Obligations.FrameLengthFromHeaderAndLength : Prop :=
  (∀ (h : Byte) (t : List Byte), h ≠ 0x01#8 → boundary (h :: t) = .found 1) ∧
  (boundary [0x01#8] = .needMore) ∧
  (∀ (l : Byte) (t : List Byte), boundary (0x01#8 :: l :: t) =
    if t.length < l.toNat then .needMore else .found (l.toNat + 2))

/-! ### The step -/

/-- When the environment offers a word that decodes to `i`, the step is `exec` of `i` with that offer used up; before
the first RESET only RESET is taken (R9, R18, R24; the offers are the model's own, log 1, and so is the bit, log 2). -/
def Obligations.StepRunsTheOfferedEvent : Prop :=
  ∀ (s : State) (o : Offer) (rest : List Offer) (i : Instr), s.offers = o :: rest → decodeOffer o = .ok i →
    step s = if s.resetSeen = true ∨ i = .reset then exec i { s with offers := rest }
      else .refused .beforeFirstReset

/-- An offer that decodes to no event (the ordinals 0xE and 0xF, R58, D4) is refused, and these two are the only ones. -/
def Obligations.UnassignedOrdinalsAreRefused : Prop :=
  (∀ (s : State) (o : Offer) (rest : List Offer), s.offers = o :: rest → (o.ordinal = 0xE#4 ∨ o.ordinal = 0xF#4) →
    step s = .refused (.undecodable (.unassignedOrdinal o.ordinal))) ∧
  (∀ o : Offer, o.ordinal ≠ 0xE#4 → o.ordinal ≠ 0xF#4 → ∃ i, decodeOffer o = .ok i)

/-- With nothing offered the unit takes its own RX_EXTRACT when a frame waits and a RESET has happened, and otherwise
idles (R18, R159; the model's choice, log 13). -/
def Obligations.UnofferedStepExtractsOrIdles : Prop :=
  ∀ s : State, s.offers = [] →
    (s.resetSeen = true → s.frameAvail = true → step s = exec .rxExtract s) ∧
    (s.resetSeen = true → s.frameAvail = false → step s = .next s) ∧
    (s.resetSeen = false → step s = .next s)

/-- RX_EXTRACT runs the wire instruction its frame decodes to, in the state whose queue no longer holds the frame
(R94, R115). -/
def Obligations.ExtractRunsTheDecodedFrame : Prop :=
  ∀ (s : State) (i : Instr) (rest : List Byte), s.engState ≠ .stopped → decodeWire s.rxq = .ok (i, rest) →
    exec .rxExtract s = exec i { s with rxq := rest }

/-- A step is refused only for the reasons the spec gives: an unassigned ordinal (R58), anything before the first RESET
(R24), CHECKSUM or UPDATE_CHECKSUM on fewer than 2 bytes (R72, R74, D10). Nothing faults (R141). -/
def Obligations.RefusalsAreTheSpecsOwn : Prop :=
  ∀ s : State, SafeStep s ∨
    (∃ o rest, s.offers = o :: rest ∧
      ((o.ordinal = 0xE#4 ∨ o.ordinal = 0xF#4) ∧ step s = .refused (.undecodable (.unassignedOrdinal o.ordinal)) ∨
       s.resetSeen = false ∧ o.ordinal ≠ 0x0#4 ∧ step s = .refused .beforeFirstReset ∨
       s.resetSeen = true ∧ o.operands.bytes.length < 2 ∧
         (o.ordinal = 0x9#4 ∧ step s = .refused .checksumTooShort ∨
          o.ordinal = 0xB#4 ∧ step s = .refused .updateChecksumTooShort)))

/-! ### Reset and the invariants -/

/-- The values after RESET (R24, R171; values the spec's own, D21). -/
def Obligations.ResetStateHasTheSpecValues : Prop :=
  State.reset.rxq = [] ∧ State.reset.engState = .idle ∧ State.reset.permit = .free ∧
  State.reset.pending = none ∧ State.reset.stopCause = none

/-- RESET in every state sets the five elements, emits nothing and completes nothing (R170, D21), and is what makes the
other steps possible (R24; the bit is the model's, log 2). -/
def Obligations.ResetRestoresAllFiveElements : Prop :=
  ∀ s : State, exec .reset s = .next
    { s with rxq := [], engState := .idle, permit := .free, pending := none, stopCause := none, resetSeen := true }

/-- The invariants hold after reset (R16, R24). -/
def Obligations.ResetMeetsTheInvariants : Prop := UnitInv State.reset

/-- Every step keeps them, whatever the environment offers and whatever the transport answers (R16). -/
def Obligations.EveryStepKeepsTheInvariants : Prop :=
  ∀ s t : State, UnitInv s → step s = .next t → UnitInv t

/-- Every state the unit can be in after a RESET meets the invariants, whatever is offered and answered (R16, R147). -/
def Obligations.ReachableStatesMeetTheInvariants : Prop :=
  ∀ s : State, Reachable s → UnitInv s

/-! ### DISPATCH: the wire rows -/

/-- R113: `Resolve` emits one completion, empties the slot, frees the permit and returns to Idle; and it is the single way
a pending write ends while the engine keeps running: an event after which the pending write is no longer pending and the
engine is not stopped has done `Resolve` and, but for the frame an RX_EXTRACT removes from the queue, nothing else. RESET,
which drops the write and begins anew (R170; D21), is left out. -/
def Obligations.ResolveEndsThePendingWrite : Prop :=
  (∀ (o : WriteOutcome) (s : State) (p : PendingWrite), s.pending = some p →
    resolve o s = { s with
      out := s.out ++ [.cpl p.handle o], pending := none, permit := .free, engState := .idle }) ∧
  (∀ (i : Instr) (s t : State) (p : PendingWrite), UnitInv s → s.pending = some p → i ≠ .reset →
    exec i s = .next t → t.pending ≠ some p → t.engState ≠ .stopped →
    ∃ o, t = { resolve o s with rxq := t.rxq } ∧ (i ≠ .rxExtract → t = resolve o s))

/-- R116: ACK resolves a pending write as delivered; without one it is logged and ignored. -/
def Obligations.AckDeliversThePendingWrite : Prop :=
  ∀ s : State, s.engState ≠ .stopped →
    (∀ p, s.pending = some p → exec .ack s = .next { s with
      out := s.out ++ [.cpl p.handle .delivered], pending := none, permit := .free, engState := .idle }) ∧
    (s.pending = none → exec .ack s = .next { s with out := s.out ++ [.log .unexpectedAck] })

/-- NAK and CAN resolve a pending write with the outcome that carries their code, and resend nothing (R117, R118);
without one they are logged and ignored (the spec's own decision D11). -/
def Obligations.NakAndCanRejectThePendingWrite : Prop :=
  ∀ s : State, s.engState ≠ .stopped →
    (∀ p, s.pending = some p →
      exec .nak s = .next { s with
        out := s.out ++ [.cpl p.handle .nak], pending := none, permit := .free, engState := .idle } ∧
      exec .can s = .next { s with
        out := s.out ++ [.cpl p.handle .can], pending := none, permit := .free, engState := .idle }) ∧
    (s.pending = none →
      exec .nak s = .next { s with out := s.out ++ [.log (.unexpectedNakCan 0x15#8)] } ∧
      exec .can s = .next { s with out := s.out ++ [.log (.unexpectedNakCan 0x18#8)] }) ∧
    WriteOutcome.controlCode .nak = some 0x15#8 ∧ WriteOutcome.controlCode .can = some 0x18#8

/-- R119: an unknown control byte is logged, and nothing else happens. -/
def Obligations.UnknownControlIsOnlyLogged : Prop :=
  ∀ (x : Byte) (s : State), x ≠ 0x01#8 → x ≠ 0x06#8 → x ≠ 0x15#8 → x ≠ 0x18#8 → s.engState ≠ .stopped →
    exec (.unknown x) s = .next { s with out := s.out ++ [.log (.unknownControl x)] }

/-- A valid data frame is answered with ACK and then published; if the ACK's transmit fails, the engine stops and the
frame is not published (R120; the failing case is the spec's own, D14, D26). -/
def Obligations.ValidDataIsAckedThenPublished : Prop :=
  ∀ (l : Byte) (body : List Byte) (d : DataFrame) (s : State), s.engState ≠ .stopped →
    decodeFrame (0x01#8 :: l :: body) = .ok (.data d) →
    (s.txAnswer = .ok → exec (.data l body) s = .next { s.afterDraw with
      out := s.out ++ [.tx 0x06#8, .pub d] }) ∧
    (∀ j, s.txAnswer = .ioError j → exec (.data l body) s = .next { s.afterDraw with
      out := s.out ++ ([0x06#8].take j).map .tx ++ completionOf s.pending .transportIoError,
      pending := none, permit := .free, engState := .stopped, stopCause := some .transportIoError }) ∧
    (∀ j, s.txAnswer = .closed j → exec (.data l body) s = .next { s.afterDraw with
      out := s.out ++ ([0x06#8].take j).map .tx ++ completionOf s.pending .transportClosed,
      pending := none, permit := .free, engState := .stopped, stopCause := some .transportClosed })

/-- An invalid data frame is logged with its kind (D12), answered with NAK, and not published; a failed NAK stops the
engine (R121; D14). -/
def Obligations.InvalidDataIsNakedAndDropped : Prop :=
  ∀ (l : Byte) (body : List Byte) (e : FrameError) (s : State), s.engState ≠ .stopped →
    decodeFrame (0x01#8 :: l :: body) = .error e →
    (s.txAnswer = .ok → exec (.data l body) s = .next { s.afterDraw with
      out := s.out ++ [.log (.frameRejected e), .tx 0x15#8] }) ∧
    (∀ j, s.txAnswer = .ioError j → exec (.data l body) s = .next { s.afterDraw with
      out := s.out ++ [.log (.frameRejected e)] ++ ([0x15#8].take j).map .tx
        ++ completionOf s.pending .transportIoError,
      pending := none, permit := .free, engState := .stopped, stopCause := some .transportIoError }) ∧
    (∀ j, s.txAnswer = .closed j → exec (.data l body) s = .next { s.afterDraw with
      out := s.out ++ [.log (.frameRejected e)] ++ ([0x15#8].take j).map .tx
        ++ completionOf s.pending .transportClosed,
      pending := none, permit := .free, engState := .stopped, stopCause := some .transportClosed })

/-- Each transmit takes one answer of the transport and acts on it: all bytes out and the rule goes on, or a first part of
them out and the engine stops (R112; D14). The answers are taken in the order the environment gives them; beyond its list
the answer is free, and a fresh one each time (R8; the form is the model's, log 4). -/
def Obligations.AnswersAreTakenInOrder : Prop :=
  (∀ (s : State) (a : TxAnswer) (rest : List TxAnswer), s.answers = a :: rest →
    s.txAnswer = a ∧ s.afterDraw = { s with answers := rest }) ∧
  (∀ s : State, s.answers = [] →
    s.txAnswer = Config.freeTxAnswer s.draws ∧ s.afterDraw = { s with draws := s.draws + 1 }) ∧
  (∀ (bs : List Byte) (onOk : State → State) (s : State),
    (s.txAnswer = .ok → transmitThen bs onOk s = onOk (s.afterDraw.emitTx bs) ∧
      transmit bs s = s.afterDraw.emitTx bs) ∧
    (∀ j, s.txAnswer = .ioError j →
      transmitThen bs onOk s = stop .transportIoError (s.afterDraw.emitTx (bs.take j)) ∧
      transmit bs s = stop .transportIoError (s.afterDraw.emitTx (bs.take j))) ∧
    (∀ j, s.txAnswer = .closed j →
      transmitThen bs onOk s = stop .transportClosed (s.afterDraw.emitTx (bs.take j)) ∧
      transmit bs s = stop .transportClosed (s.afterDraw.emitTx (bs.take j))))

/-! ### The write path -/

/-- WRITE from Idle with the permit free and at most 252 parameters (R110, R78, R52; D1): the frame goes out, the write
is pending, the permit is held; a failed transmit completes it and stops the engine (D14). -/
def Obligations.WriteTransmitsAndRegisters : Prop :=
  ∀ (mt cmd : Byte) (ps : List Byte) (h : Handle) (d : Option Deadline) (s : State),
    s.permit = .free → s.engState = .idle → ps.length ≤ 252 →
    ∃ f : List Byte,
      f = [0x01#8, BitVec.ofNat 8 (ps.length + 3), mt, cmd] ++ ps ++
        [~~~(([BitVec.ofNat 8 (ps.length + 3), mt, cmd] ++ ps).foldl (· ^^^ ·) 0#8)] ∧
      (s.txAnswer = .ok → exec (.write mt cmd ps h d) s = .next { s.afterDraw with
        out := s.out ++ f.map .tx, permit := .held,
        pending := some { frame := f, handle := h, deadline := d }, engState := .awaitingAck }) ∧
      (∀ j, s.txAnswer = .ioError j → exec (.write mt cmd ps h d) s = .next { s.afterDraw with
        out := s.out ++ (f.take j).map .tx ++ [.cpl h .transportIoError], permit := .free,
        pending := none, engState := .stopped, stopCause := some .transportIoError }) ∧
      (∀ j, s.txAnswer = .closed j → exec (.write mt cmd ps h d) s = .next { s.afterDraw with
        out := s.out ++ (f.take j).map .tx ++ [.cpl h .transportClosed], permit := .free,
        pending := none, engState := .stopped, stopCause := some .transportClosed })

/-- WRITE with more than 252 parameters, while Idle: only a completion (R114; D1, D29). -/
def Obligations.OversizeWriteOnlyCompletes : Prop :=
  ∀ (mt cmd : Byte) (ps : List Byte) (h : Handle) (d : Option Deadline) (s : State),
    s.permit = .free → s.engState = .idle → 252 < ps.length →
    exec (.write mt cmd ps h d) s = .next { s with out := s.out ++ [.cpl h .parametersTooLarge] }

/-- WRITE while stopped: completed at once with the outcome of the stop, whatever the parameters (R111; after a SHUTDOWN
`WriteCanceled`, D15). -/
def Obligations.WriteWhileStoppedGetsTheStopOutcome : Prop :=
  ∀ (mt cmd : Byte) (ps : List Byte) (h : Handle) (d : Option Deadline) (s : State),
    s.permit = .free → s.engState = .stopped →
    (s.stopCause = some .transportClosed → exec (.write mt cmd ps h d) s =
      .next { s with out := s.out ++ [.cpl h .transportClosed] }) ∧
    (s.stopCause = some .transportIoError → exec (.write mt cmd ps h d) s =
      .next { s with out := s.out ++ [.cpl h .transportIoError] }) ∧
    (s.stopCause = some .shutdown → exec (.write mt cmd ps h d) s =
      .next { s with out := s.out ++ [.cpl h .writeCanceled] })

/-- A WRITE offered while the permit is held is not accepted: nothing changes (R110, D16; log 5). -/
def Obligations.WriteWaitsWhileThePermitIsHeld : Prop :=
  ∀ (mt cmd : Byte) (ps : List Byte) (h : Handle) (d : Option Deadline) (s : State),
    s.permit = .held → exec (.write mt cmd ps h d) s = .next s

/-- CANCEL resolves the pending write with its handle, and otherwise does nothing (R124; the handle and the no-op are the
spec's own, D17, D25). -/
def Obligations.CancelActsOnlyOnItsHandle : Prop :=
  ∀ (h : Handle) (s : State),
    (∀ p, s.pending = some p → p.handle = h → exec (.cancel h) s = .next { s with
      out := s.out ++ [.cpl h .writeCanceled], pending := none, permit := .free, engState := .idle }) ∧
    (∀ p, s.pending = some p → p.handle ≠ h → exec (.cancel h) s = .next s) ∧
    (s.pending = none → exec (.cancel h) s = .next s)

/-- TIMEOUT resolves the pending write with its handle if that write has a deadline, and otherwise does nothing (R123;
the handle and the no-op are the spec's own, D17, D18, D25). -/
def Obligations.TimeoutNeedsHandleAndDeadline : Prop :=
  ∀ (h : Handle) (s : State),
    (∀ p dl, s.pending = some p → p.handle = h → p.deadline = some dl → exec (.timeout h) s = .next { s with
      out := s.out ++ [.cpl h .writeTimedOut], pending := none, permit := .free, engState := .idle }) ∧
    (∀ p, s.pending = some p → p.deadline = none → exec (.timeout h) s = .next s) ∧
    (∀ p, s.pending = some p → p.handle ≠ h → exec (.timeout h) s = .next s) ∧
    (s.pending = none → exec (.timeout h) s = .next s)

/-! ### Stopping -/

/-- `Stop` completes a pending write with the outcome of the cause, frees the permit, stops the engine, records the cause
and keeps everything else; SHUTDOWN, RX_CLOSE, RX_ERROR and a failed `Transmit` call it (R150, R112; the outcome after a
SHUTDOWN and the failed transmit are the spec's own, D15, D14). -/
def Obligations.StopCompletesAndRecordsTheCause : Prop :=
  (∀ (c : StopCause) (s : State), stop c s = { s with
    out := s.out ++ completionOf s.pending (stopOutcome c),
    pending := none, permit := .free, engState := .stopped, stopCause := some c }) ∧
  (stopOutcome .transportClosed = .transportClosed ∧ stopOutcome .transportIoError = .transportIoError ∧
    stopOutcome .shutdown = .writeCanceled) ∧
  (∀ s : State, s.engState ≠ .stopped → exec .shutdown s = .next (stop .shutdown s)) ∧
  (∀ s : State, s.engState ≠ .stopped → boundary s.rxq = .needMore →
    exec .rxClose s = .next (stop .transportClosed s) ∧ exec .rxError s = .next (stop .transportIoError s)) ∧
  (∀ (bs : List Byte) (s : State) (j : Nat),
    (s.txAnswer = .ioError j → transmit bs s = stop .transportIoError (s.afterDraw.emitTx (bs.take j))) ∧
    (s.txAnswer = .closed j → transmit bs s = stop .transportClosed (s.afterDraw.emitTx (bs.take j))))

/-- SHUTDOWN stops a running engine, completing a pending write as canceled, and does nothing once it is stopped (R125;
the no-op is the spec's own, D25). -/
def Obligations.ShutdownStopsOnce : Prop :=
  ∀ s : State,
    (s.engState ≠ .stopped → exec .shutdown s = .next { s with
      out := s.out ++ completionOf s.pending .writeCanceled,
      pending := none, permit := .free, engState := .stopped, stopCause := some .shutdown }) ∧
    (s.engState = .stopped → exec .shutdown s = .next s)

/-- R126: RX_CLOSE stops the engine with TransportClosed, and the queue keeps what it held. -/
def Obligations.RxCloseStopsAsClosed : Prop :=
  ∀ s : State, s.engState ≠ .stopped → boundary s.rxq = .needMore →
    exec .rxClose s = .next { s with
      out := s.out ++ completionOf s.pending .transportClosed,
      pending := none, permit := .free, engState := .stopped, stopCause := some .transportClosed }

/-- R127: RX_ERROR stops the engine with TransportIoError. -/
def Obligations.RxErrorStopsAsIoError : Prop :=
  ∀ s : State, s.engState ≠ .stopped → boundary s.rxq = .needMore →
    exec .rxError s = .next { s with
      out := s.out ++ completionOf s.pending .transportIoError,
      pending := none, permit := .free, engState := .stopped, stopCause := some .transportIoError }

/-- A stopped engine stays stopped with its first cause until RESET: no other event changes any of the five elements or
emits on TX, PUB or LOG (R131, R152, R153). -/
def Obligations.OnlyResetLeavesStopped : Prop :=
  ∀ (i : Instr) (s t : State), UnitInv s → s.engState = .stopped → i ≠ .reset → exec i s = .next t →
    ∃ new, t = { s with out := s.out ++ new } ∧ txOf new = [] ∧ pubOf new = [] ∧ logOf new = []

/-- The transition table of `ENG_STATE`: a change of it is one of the rows of R131. -/
def Obligations.EngineChangesAreTheTableRows : Prop :=
  ∀ (i : Instr) (s t : State), UnitInv s → exec i s = .next t → t.engState ≠ s.engState →
    (i = .reset ∧ t.engState = .idle) ∨
    (s.engState = .idle ∧ ∃ mt cmd ps h d, i = .write mt cmd ps h d ∧ ps.length ≤ 252 ∧
      (s.txAnswer = .ok ∧ t.engState = .awaitingAck ∨ s.txAnswer ≠ .ok ∧ t.engState = .stopped)) ∨
    (s.engState ≠ .stopped ∧ t.engState = .stopped ∧ (i = .shutdown ∨ i = .rxClose ∨ i = .rxError)) ∨
    (s.engState ≠ .stopped ∧ t.engState = .stopped ∧ s.txAnswer ≠ .ok ∧
      ((∃ l body, i = .data l body) ∨ (i = .rxExtract ∧ s.rxq.head? = some 0x01#8))) ∨
    (s.engState = .awaitingAck ∧ t.engState = .idle ∧
      (i = .ack ∨ i = .nak ∨ i = .can ∨
       (i = .rxExtract ∧ (s.rxq.head? = some 0x06#8 ∨ s.rxq.head? = some 0x15#8 ∨ s.rxq.head? = some 0x18#8)) ∨
       (∃ h, s.pendingHas h = true ∧ (i = .cancel h ∨ (i = .timeout h ∧ s.pendingHasDeadline = true)))))

/-! ### The reader -/

/-- R92: RX_CHUNK, when the queue needs more and the chunk fits, appends the chunk and does nothing else; a chunk of
length 0 is not an RX_CHUNK. -/
def Obligations.ChunkIsAppendedToTheQueue : Prop :=
  (∀ (chunk : List Byte) (s : State), s.engState ≠ .stopped → boundary s.rxq = .needMore → 1 ≤ chunk.length →
    s.rxq.length + chunk.length ≤ Config.RXBUF_CAP →
    exec (.rxChunk chunk) s = .next { s with rxq := s.rxq ++ chunk }) ∧
  (Instr.rxChunk []).wf = false

/-- R94: RX_EXTRACT removes the first frame, keeps the leftover in order, and dispatches what DECODE returns for the
frame; the frame is gone whatever DISPATCH does. -/
def Obligations.ExtractRemovesAndDispatches : Prop :=
  ∀ (s : State) (n : Nat), s.engState ≠ .stopped → boundary s.rxq = .found n →
    exec .rxExtract s = .next (dispatch (decodeFrame (s.rxq.take n)) { s with rxq := s.rxq.drop n }) ∧
    (dispatch (decodeFrame (s.rxq.take n)) { s with rxq := s.rxq.drop n }).rxq = s.rxq.drop n

/-- The events of the reader that are not enabled leave everything as it is (R91, R153; D24; log 5), and so does an
RX_CHUNK whose chunk does not fit or is empty, in every state: an empty chunk is no RX_CHUNK (R92, R93) and is not read as
RX_CLOSE (log 5). -/
def Obligations.DisabledReaderEventsChangeNothing : Prop :=
  ∀ (chunk : List Byte) (s : State),
    ((s.engState = .stopped ∨ ∃ n, boundary s.rxq = .found n) →
      exec (.rxChunk chunk) s = .next s ∧ exec .rxClose s = .next s ∧ exec .rxError s = .next s) ∧
    ((s.engState = .stopped ∨ boundary s.rxq = .needMore) → exec .rxExtract s = .next s) ∧
    (Config.RXBUF_CAP < s.rxq.length + chunk.length → exec (.rxChunk chunk) s = .next s) ∧
    (chunk = [] → exec (.rxChunk chunk) s = .next s)

/-- The three signals (R19, D3), and that while the engine runs exactly one of `rx_ready` and `frame_avail` holds (R91,
D24). -/
def Obligations.SignalsReadTheState : Prop :=
  ∀ s : State,
    (s.rxReady = true ↔ s.engState ≠ .stopped ∧ boundary s.rxq = .needMore) ∧
    (s.frameAvail = true ↔ s.engState ≠ .stopped ∧ ∃ n, boundary s.rxq = .found n) ∧
    (s.wrReady = true ↔ s.permit = .free) ∧
    (s.engState ≠ .stopped → s.rxReady = !s.frameAvail)

/-- A boundary that is found lies inside the string and is not moved by more bytes (R90). -/
def Obligations.MoreBytesNeverMoveABoundary : Prop :=
  ∀ (q more : List Byte) (n : Nat), boundary q = .found n →
    1 ≤ n ∧ n ≤ q.length ∧ n ≤ 257 ∧ boundary (q ++ more) = .found n

/-- `RXQ` cannot overflow: while the unit takes bytes it holds at most 256, so two more always fit (R37, R93). -/
def Obligations.QueueAlwaysHasRoomForTwo : Prop :=
  ∀ (s : State) (a b : Byte), s.rxReady = true →
    s.rxq.length ≤ 256 ∧ s.chunkFits [a] = true ∧ s.chunkFits [a, b] = true

/-- Chunk invariance: however the stream is cut into chunks and whatever other events fall in between, the byte strings
extracted are FRAMES of the stream, and the queue is left with the incomplete tail (R96). -/
def Obligations.FramesDoNotDependOnChunking : Prop :=
  ∀ (s t : State) (bs : List Byte) (fs : List (List Byte)), ReaderRun s bs fs t → boundary t.rxq = .needMore →
    fs = frames (s.rxq ++ bs) ∧ s.rxq ++ bs = fs.flatten ++ t.rxq

/-- What DECODE can return inside RX_EXTRACT (R95): a one-byte frame is a control frame whose byte is not SOF; a longer
one is FrameTooSmall exactly when it has 2, 3 or 4 bytes, and otherwise ChecksumMismatch or a data frame. -/
def Obligations.ExtractedFramesDecodeAs : Prop :=
  ∀ (q : List Byte) (n : Nat), boundary q = .found n →
    (n = 1 → ∃ x, q.head? = some x ∧ x ≠ 0x01#8 ∧ decodeFrame (q.take n) = .ok (.control (kind x))) ∧
    (2 ≤ n → n ≤ 4 → decodeFrame (q.take n) = .error .frameTooSmall) ∧
    (5 ≤ n → decodeFrame (q.take n) = .error .checksumMismatch ∨
      ∃ d, decodeFrame (q.take n) = .ok (.data d))

/-- The reader never transmits, and DISPATCH answers each extracted data frame with exactly one byte, ACK or NAK, and no
control frame with any (R40, R99; transmit taken as Ok, the premise D14 names). -/
def Obligations.OneReplyByteForEachDataFrame : Prop :=
  (∀ (chunk : List Byte) (s t : State), exec (.rxChunk chunk) s = .next t → t.out = s.out) ∧
  (∀ (s t : State) (n : Nat), s.engState ≠ .stopped → boundary s.rxq = .found n → s.txAnswer = .ok →
    exec .rxExtract s = .next t → ∃ new, t.out = s.out ++ new ∧
      (s.rxq.head? = some 0x01#8 →
        (valid (s.rxq.take n) = true → txOf new = [0x06#8] ∧ ∃ d, pubOf new = [d]) ∧
        (valid (s.rxq.take n) = false → txOf new = [0x15#8] ∧ pubOf new = [])) ∧
      (s.rxq.head? ≠ some 0x01#8 → txOf new = [] ∧ pubOf new = []))

/-! ### The codec -/

/-- CHECKSUM of 2 bytes or more is the complement of the exclusive-or of every byte but the first and the last; fewer are
refused (R72; the refusal is the spec's own, D10). -/
def Obligations.ChecksumFoldsTheSpan : Prop :=
  (∀ (first last : Byte) (span : List Byte) (s : State),
    exec (.checksum (first :: (span ++ [last]))) s = .next { s with
      out := s.out ++ [.port (.checksum (~~~(span.foldl (· ^^^ ·) 0#8)))] }) ∧
  (∀ (b : List Byte) (s : State), b.length < 2 → exec (.checksum b) s = .refused .checksumTooShort)

/-- UPDATE_CHECKSUM replaces the last byte by the checksum and nothing else; fewer than 2 bytes are refused (R74; D10). -/
def Obligations.UpdateChecksumWritesTheLastByte : Prop :=
  (∀ (first last : Byte) (span : List Byte) (s : State),
    exec (.updateChecksum (first :: (span ++ [last]))) s = .next { s with
      out := s.out ++ [.port (.updateChecksum (first :: (span ++ [~~~(span.foldl (· ^^^ ·) 0#8)])))] }) ∧
  (∀ (b : List Byte) (s : State), b.length < 2 → exec (.updateChecksum b) s = .refused .updateChecksumTooShort)

/-- ENCODE lays out up to 252 parameters, whatever the checksum byte it leaves, and fails with ParametersTooLarge above
(R73; 252 is D1's; that the byte is 0x00 is D5's and is not claimed here, U1, log 8). -/
def Obligations.EncodeLaysOutTheFields : Prop :=
  ∀ (mt cmd : Byte) (ps : List Byte) (s : State),
    (ps.length ≤ 252 → ∃ c : Byte, exec (.encode mt cmd ps) s = .next { s with
      out := s.out ++ [.port (.encode (.ok
        ([0x01#8, BitVec.ofNat 8 (ps.length + 3), mt, cmd] ++ ps ++ [c])))] }) ∧
    (252 < ps.length → exec (.encode mt cmd ps) s = .next { s with
      out := s.out ++ [.port (.encode (.error .parametersTooLarge))] })

/-- DECODE gives the first failing test in the order of R77, or the fields of the frame (R75, R76; the empty string, the
lone SOF and the rank of BadHeader are D6, D7, D8); its result goes to the codec port and nothing else changes (D34). -/
def Obligations.DecodeReportsTheFirstFailingTest : Prop :=
  (∀ (b : List Byte) (s : State), exec (.decode b) s = .next { s with
    out := s.out ++ [.port (.decode (decodeFrame b))] }) ∧
  (decodeFrame [] = .error .frameTooSmall) ∧
  (decodeFrame [0x06#8] = .ok (.control .ack) ∧ decodeFrame [0x15#8] = .ok (.control .nak) ∧
    decodeFrame [0x18#8] = .ok (.control .can)) ∧
  (∀ x : Byte, x ≠ 0x06#8 → x ≠ 0x15#8 → x ≠ 0x18#8 → decodeFrame [x] = .ok (.control (.unknown x))) ∧
  (∀ (x y : Byte) (t : List Byte), x ≠ 0x01#8 → decodeFrame (x :: y :: t) = .error .badHeader) ∧
  (∀ (l : Byte) (t : List Byte),
    (t.length < 3 → decodeFrame (0x01#8 :: l :: t) = .error .frameTooSmall) ∧
    (256 < t.length → decodeFrame (0x01#8 :: l :: t) = .error .frameTooBig) ∧
    (3 ≤ t.length → t.length ≤ 256 → l.toNat ≠ t.length →
      decodeFrame (0x01#8 :: l :: t) = .error .lengthMismatch)) ∧
  (∀ (l mt cmd c : Byte) (ps : List Byte), l.toNat = ps.length + 3 →
    (c ≠ ~~~(([l, mt, cmd] ++ ps).foldl (· ^^^ ·) 0#8) →
      decodeFrame ([0x01#8, l, mt, cmd] ++ ps ++ [c]) = .error .checksumMismatch) ∧
    (c = ~~~(([l, mt, cmd] ++ ps).foldl (· ^^^ ·) 0#8) →
      decodeFrame ([0x01#8, l, mt, cmd] ++ ps ++ [c]) = .ok (.data
        { messageType := mt, command := cmd, parameters := ps, checksum := c })))

/-- BOUNDARY on the codec port answers for its operand and changes nothing else (R90, R70; D34). -/
def Obligations.BoundaryAnswersOnThePort : Prop :=
  (∀ (q : List Byte) (s : State), exec (.boundary q) s = .next { s with
    out := s.out ++ [.port (.boundary (boundary q))] }) ∧
  (boundary [] = .needMore ∧ boundary [0x01#8] = .needMore) ∧
  (∀ (h : Byte) (t : List Byte), h ≠ 0x01#8 → boundary (h :: t) = .found 1) ∧
  (∀ (l : Byte) (t : List Byte),
    (t.length < l.toNat → boundary (0x01#8 :: l :: t) = .needMore) ∧
    (l.toNat ≤ t.length → boundary (0x01#8 :: l :: t) = .found (l.toNat + 2)))

/-- R79: a byte string is valid exactly when its header is SOF, its length is in 5 to 258, its Length byte is its length
minus 2, and its last byte is its checksum. -/
def Obligations.ValidIsTheFourConditions : Prop :=
  ∀ b : List Byte, (∃ d, decodeFrame b = .ok (.data d)) ↔
    (b.head? = some 0x01#8 ∧ 5 ≤ b.length ∧ b.length ≤ 258 ∧
      (∃ l, b[1]? = some l ∧ l.toNat = b.length - 2) ∧
      b.getLast? = some (~~~((b.tail.dropLast).foldl (· ^^^ ·) 0#8)))

/-- FRAME and DECODE are inverse (R80; the bound 252 is D1's): decoding a frame gives its fields back, and every valid
byte string is the frame of its fields. -/
def Obligations.FrameAndDecodeAreInverse : Prop :=
  (∀ (mt cmd : Byte) (ps : List Byte), ps.length ≤ 252 →
    ∃ f, frameBytes mt cmd ps = .ok f ∧
      decodeFrame f = .ok (.data { messageType := mt, command := cmd, parameters := ps, checksum := checksum f })) ∧
  (∀ (b : List Byte) (d : DataFrame), decodeFrame b = .ok (.data d) →
    frameBytes d.messageType d.command d.parameters = .ok b)

/-- What the checksum detects (R81): the exclusive-or of a valid frame from offset 1 on is 0xFF, and changing any one byte
from offset 1 on makes the frame invalid. -/
def Obligations.OneChangedByteIsDetected : Prop :=
  ∀ b : List Byte, valid b = true →
    b.tail.foldl (· ^^^ ·) 0#8 = 0xFF#8 ∧
    ∀ (k : Nat) (x : Byte), 1 ≤ k → k < b.length → b[k]? ≠ some x → valid (b.set k x) = false

/-- The lengths at the edges (R82): 258 bytes with SOF are a LengthMismatch, FrameTooBig is for 259 and more, and a data
frame has 5 to 257 bytes and its length less 5 parameters. -/
def Obligations.DecodeLengthEdges : Prop :=
  ∀ b : List Byte,
    (b.length = 258 → b.head? = some 0x01#8 → decodeFrame b = .error .lengthMismatch) ∧
    (decodeFrame b = .error .frameTooBig ↔ b.head? = some 0x01#8 ∧ 259 ≤ b.length) ∧
    (∀ d, decodeFrame b = .ok (.data d) →
      5 ≤ b.length ∧ b.length ≤ 257 ∧ d.parameters.length = b.length - 5 ∧ d.parameters.length ≤ 252)

/-! ### Properties of the engine -/

/-- Exactly once (R148): but for RESET, the handles an event completes and the one it leaves pending are the one that was
pending and the ones it accepts. -/
def Obligations.EveryAcceptedWriteCompletesOnce : Prop :=
  ∀ (i : Instr) (s t : State), UnitInv s → i ≠ .reset → exec i s = .next t →
    ∃ new, t.out = s.out ++ new ∧
      (cplOf new).map Prod.fst ++ pendingHandles t = pendingHandles s ++ acceptedHandles i s

/-- Single flight (R128): once a write is pending, the permit is free again only after that write's completion, so a
later WRITE's bytes come after it; and while the permit is held a WRITE puts nothing on TX. -/
def Obligations.OneWriteInFlight : Prop :=
  (∀ (s t : State) (is : List Instr) (p : PendingWrite), UnitInv s → s.pending = some p → Steps s is t →
    ∃ new, t.out = s.out ++ new ∧ (t.permit = .free → ∃ o, (p.handle, o) ∈ cplOf new)) ∧
  (∀ (mt cmd : Byte) (ps : List Byte) (h : Handle) (d : Option Deadline) (s t : State), s.permit = .held →
    exec (.write mt cmd ps h d) s = .next t → t.out = s.out)

/-- Where TX bytes come from (R99, R110, R120, R121, R130): a prefix of an accepted write's frame, or one reply byte of a
data frame; nothing is ever resent. -/
def Obligations.TxBytesAreFramesOrReplies : Prop :=
  ∀ (i : Instr) (s t : State), exec i s = .next t → ∃ new, t.out = s.out ++ new ∧
    (txOf new = [] ∨
     (∃ mt cmd ps h d f, i = .write mt cmd ps h d ∧ s.permit = .free ∧ s.engState = .idle ∧
       frameBytes mt cmd ps = .ok f ∧ ∃ rest, txOf new ++ rest = f) ∨
     ((txOf new = [0x06#8] ∨ txOf new = [0x15#8]) ∧ s.engState ≠ .stopped ∧
       ((∃ l body, i = .data l body) ∨ (i = .rxExtract ∧ s.rxq.head? = some 0x01#8))))

/-- Publication (R120, R129): a frame is published only by a valid inbound data frame whose ACK was transmitted, once,
and after that ACK. -/
def Obligations.PublishedOnlyAfterItsAck : Prop :=
  ∀ (i : Instr) (s t : State), exec i s = .next t → ∃ new, t.out = s.out ++ new ∧
    (pubOf new = [] ∨
     ∃ d f, new = [.tx 0x06#8, .pub d] ∧ decodeFrame f = .ok (.data d) ∧ s.txAnswer = .ok ∧
       ((∃ l body, i = .data l body ∧ f = 0x01#8 :: l :: body) ∨
        (i = .rxExtract ∧ ∃ n, boundary s.rxq = .found n ∧ f = s.rxq.take n)))

/-- No rule reads an output channel (R23, R161): with other records already emitted, an event does the same and emits the
same; it never takes a record back. -/
def Obligations.OutputsAreNeverRead : Prop :=
  ∀ (i : Instr) (s : State) (before : List OutRecord),
    (∀ t, exec i s = .next t → ∃ new, t.out = s.out ++ new ∧
      exec i { s with out := before } = .next { t with out := before ++ new }) ∧
    (∀ r, exec i s = .refused r → exec i { s with out := before } = .refused r)

/-- Two of the races of R147, both orders of each: (a) an ACK against a TIMEOUT for the same write; (d) a WRITE against
the extraction of a stray ACK already in the queue (R147, R175). -/
def Obligations.RacesRunInBothOrders : Prop :=
  (∀ (s t u : State) (p : PendingWrite) (dl : Deadline) (rest : List Byte), s.engState = .awaitingAck →
    s.pending = some p → p.deadline = some dl → s.rxq = 0x06#8 :: rest →
    (exec .rxExtract s = .next t → exec (.timeout p.handle) t = .next u →
      u.out = s.out ++ [.cpl p.handle .delivered]) ∧
    (exec (.timeout p.handle) s = .next t → exec .rxExtract t = .next u →
      u.out = s.out ++ [.cpl p.handle .writeTimedOut, .log .unexpectedAck])) ∧
  (∀ (s t u : State) (mt cmd : Byte) (ps : List Byte) (h : Handle) (d : Option Deadline) (rest : List Byte),
    UnitInv s → s.engState = .idle → s.rxq = 0x06#8 :: rest → ps.length ≤ 252 → s.txAnswer = .ok →
    (exec .rxExtract s = .next t → exec (.write mt cmd ps h d) t = .next u →
      logOf u.out = logOf s.out ++ [.unexpectedAck] ∧ cplOf u.out = cplOf s.out ∧ pendingHandles u = [h]) ∧
    (exec (.write mt cmd ps h d) s = .next t → exec .rxExtract t = .next u →
      logOf u.out = logOf s.out ∧ cplOf u.out = cplOf s.out ++ [(h, .delivered)] ∧ pendingHandles u = []))

/-- The late-reply hazard (R174): after a CANCEL and a new WRITE, an ACK meant for the canceled write delivers the new
one. -/
def Obligations.LateAckResolvesTheNewWrite : Prop :=
  ∀ (s t u v : State) (p : PendingWrite) (mt cmd : Byte) (ps : List Byte) (h : Handle) (d : Option Deadline)
    (rest : List Byte), UnitInv s → s.pending = some p → s.rxq = 0x06#8 :: rest → ps.length ≤ 252 → s.txAnswer = .ok →
    exec (.cancel p.handle) s = .next t → exec (.write mt cmd ps h d) t = .next u → exec .rxExtract u = .next v →
    cplOf v.out = cplOf s.out ++ [(p.handle, .writeCanceled), (h, .delivered)] ∧ v.engState = .idle

/-- The numbers of the error kinds and of the engine states, for harnesses (R140, R12; the spec's own, D22, D4), and the
kinds that results, outcomes and records carry. -/
def Obligations.ErrorKindsCarryTheirOrdinals : Prop :=
  ([EncodeError.parametersTooLarge.kind.ordinal] ++
    [FrameError.frameTooSmall, .frameTooBig, .badHeader, .lengthMismatch, .checksumMismatch].map (fun e => e.kind.ordinal) ++
    [LogRecord.unexpectedAck].filterMap (fun r => r.kind.map ErrorKind.ordinal) ++
    [WriteOutcome.writeTimedOut, .writeCanceled, .transportClosed, .transportIoError].filterMap
      (fun o => o.kind.map ErrorKind.ordinal)) = [1, 2, 3, 4, 5, 6, 7, 8, 9, 10, 11] ∧
  WriteOutcome.delivered.kind = none ∧ WriteOutcome.nak.kind = none ∧ WriteOutcome.can.kind = none ∧
  (∀ e : FrameError, LogRecord.kind (.frameRejected e) = some e.kind) ∧
  [EngState.idle, .awaitingAck, .stopped].map EngState.ordinal = [0, 1, 2]
end

