-- ==== Sys2Proof/Laws/Channels.lean ====
section
/-! SUPPORT. The channels of a list of records (rule R21): how they split over an append, and what the bytes of a transmit
and a completion put on each. -/

namespace Sys2Proof.Machine

theorem txOf_append (a b : List OutRecord) : txOf (a ++ b) = txOf a ++ txOf b := by simp [txOf]
theorem cplOf_append (a b : List OutRecord) : cplOf (a ++ b) = cplOf a ++ cplOf b := by simp [cplOf]
theorem pubOf_append (a b : List OutRecord) : pubOf (a ++ b) = pubOf a ++ pubOf b := by simp [pubOf]
theorem logOf_append (a b : List OutRecord) : logOf (a ++ b) = logOf a ++ logOf b := by simp [logOf]

/-- A run of transmitted bytes is on TX in order, and on no other channel. -/
theorem txOf_tx (bs : List Byte) : txOf (bs.map .tx) = bs := by
  induction bs with
  | nil => rfl
  | cons b bs ih => exact congrArg (b :: ·) ih

theorem cplOf_tx (bs : List Byte) : cplOf (bs.map .tx) = [] := by
  induction bs with
  | nil => rfl
  | cons b bs ih => exact ih

theorem pubOf_tx (bs : List Byte) : pubOf (bs.map .tx) = [] := by
  induction bs with
  | nil => rfl
  | cons b bs ih => exact ih

theorem logOf_tx (bs : List Byte) : logOf (bs.map .tx) = [] := by
  induction bs with
  | nil => rfl
  | cons b bs ih => exact ih

/-- A completion is on CPL, and on no other channel. -/
theorem cplOf_completionOf (p : Option PendingWrite) (o : WriteOutcome) :
    cplOf (completionOf p o) = (p.map fun w => (w.handle, o)).toList := by cases p <;> rfl

theorem txOf_completionOf (p : Option PendingWrite) (o : WriteOutcome) : txOf (completionOf p o) = [] := by
  cases p <;> rfl

theorem pubOf_completionOf (p : Option PendingWrite) (o : WriteOutcome) : pubOf (completionOf p o) = [] := by
  cases p <;> rfl

theorem logOf_completionOf (p : Option PendingWrite) (o : WriteOutcome) : logOf (completionOf p o) = [] := by
  cases p <;> rfl

end Sys2Proof.Machine
end

