-- ==== Sys2Proof/Laws/State.lean ====
section
/-! SUPPORT. One lemma per field per update of the state, so that no later proof unfolds a record update. -/

namespace Sys2Proof.Machine

section
variable (s : State) (r : OutRecord)
@[simp] theorem State.emit_rxq : (s.emit r).rxq = s.rxq := rfl
@[simp] theorem State.emit_engState : (s.emit r).engState = s.engState := rfl
@[simp] theorem State.emit_permit : (s.emit r).permit = s.permit := rfl
@[simp] theorem State.emit_pending : (s.emit r).pending = s.pending := rfl
@[simp] theorem State.emit_stopCause : (s.emit r).stopCause = s.stopCause := rfl
@[simp] theorem State.emit_resetSeen : (s.emit r).resetSeen = s.resetSeen := rfl
@[simp] theorem State.emit_out : (s.emit r).out = s.out ++ [r] := rfl
@[simp] theorem State.emit_offers : (s.emit r).offers = s.offers := rfl
@[simp] theorem State.emit_answers : (s.emit r).answers = s.answers := rfl
@[simp] theorem State.emit_draws : (s.emit r).draws = s.draws := rfl
end

section
variable (s : State) (bs : List Byte)
@[simp] theorem State.emitTx_rxq : (s.emitTx bs).rxq = s.rxq := rfl
@[simp] theorem State.emitTx_engState : (s.emitTx bs).engState = s.engState := rfl
@[simp] theorem State.emitTx_permit : (s.emitTx bs).permit = s.permit := rfl
@[simp] theorem State.emitTx_pending : (s.emitTx bs).pending = s.pending := rfl
@[simp] theorem State.emitTx_stopCause : (s.emitTx bs).stopCause = s.stopCause := rfl
@[simp] theorem State.emitTx_resetSeen : (s.emitTx bs).resetSeen = s.resetSeen := rfl
@[simp] theorem State.emitTx_out : (s.emitTx bs).out = s.out ++ bs.map OutRecord.tx := rfl
@[simp] theorem State.emitTx_offers : (s.emitTx bs).offers = s.offers := rfl
@[simp] theorem State.emitTx_answers : (s.emitTx bs).answers = s.answers := rfl
@[simp] theorem State.emitTx_draws : (s.emitTx bs).draws = s.draws := rfl
end

section
variable (s : State) (c : List Byte)
@[simp] theorem State.appendChunk_rxq : (s.appendChunk c).rxq = s.rxq ++ c := rfl
@[simp] theorem State.appendChunk_engState : (s.appendChunk c).engState = s.engState := rfl
@[simp] theorem State.appendChunk_permit : (s.appendChunk c).permit = s.permit := rfl
@[simp] theorem State.appendChunk_pending : (s.appendChunk c).pending = s.pending := rfl
@[simp] theorem State.appendChunk_stopCause : (s.appendChunk c).stopCause = s.stopCause := rfl
@[simp] theorem State.appendChunk_resetSeen : (s.appendChunk c).resetSeen = s.resetSeen := rfl
@[simp] theorem State.appendChunk_out : (s.appendChunk c).out = s.out := rfl
@[simp] theorem State.appendChunk_offers : (s.appendChunk c).offers = s.offers := rfl
@[simp] theorem State.appendChunk_answers : (s.appendChunk c).answers = s.answers := rfl
@[simp] theorem State.appendChunk_draws : (s.appendChunk c).draws = s.draws := rfl
end

section
variable (s : State) (n : Nat)
@[simp] theorem State.dropFrame_rxq : (s.dropFrame n).rxq = s.rxq.drop n := rfl
@[simp] theorem State.dropFrame_engState : (s.dropFrame n).engState = s.engState := rfl
@[simp] theorem State.dropFrame_permit : (s.dropFrame n).permit = s.permit := rfl
@[simp] theorem State.dropFrame_pending : (s.dropFrame n).pending = s.pending := rfl
@[simp] theorem State.dropFrame_stopCause : (s.dropFrame n).stopCause = s.stopCause := rfl
@[simp] theorem State.dropFrame_resetSeen : (s.dropFrame n).resetSeen = s.resetSeen := rfl
@[simp] theorem State.dropFrame_out : (s.dropFrame n).out = s.out := rfl
@[simp] theorem State.dropFrame_offers : (s.dropFrame n).offers = s.offers := rfl
@[simp] theorem State.dropFrame_answers : (s.dropFrame n).answers = s.answers := rfl
@[simp] theorem State.dropFrame_draws : (s.dropFrame n).draws = s.draws := rfl
end

section
variable (s : State) (p : PendingWrite)
@[simp] theorem State.registerWrite_rxq : (s.registerWrite p).rxq = s.rxq := rfl
@[simp] theorem State.registerWrite_engState : (s.registerWrite p).engState = EngState.awaitingAck := rfl
@[simp] theorem State.registerWrite_permit : (s.registerWrite p).permit = Permit.held := rfl
@[simp] theorem State.registerWrite_pending : (s.registerWrite p).pending = some p := rfl
@[simp] theorem State.registerWrite_stopCause : (s.registerWrite p).stopCause = s.stopCause := rfl
@[simp] theorem State.registerWrite_resetSeen : (s.registerWrite p).resetSeen = s.resetSeen := rfl
@[simp] theorem State.registerWrite_out : (s.registerWrite p).out = s.out := rfl
@[simp] theorem State.registerWrite_offers : (s.registerWrite p).offers = s.offers := rfl
@[simp] theorem State.registerWrite_answers : (s.registerWrite p).answers = s.answers := rfl
@[simp] theorem State.registerWrite_draws : (s.registerWrite p).draws = s.draws := rfl
end

section
variable (s : State)
@[simp] theorem State.popOffer_rxq : (s.popOffer).rxq = s.rxq := rfl
@[simp] theorem State.popOffer_engState : (s.popOffer).engState = s.engState := rfl
@[simp] theorem State.popOffer_permit : (s.popOffer).permit = s.permit := rfl
@[simp] theorem State.popOffer_pending : (s.popOffer).pending = s.pending := rfl
@[simp] theorem State.popOffer_stopCause : (s.popOffer).stopCause = s.stopCause := rfl
@[simp] theorem State.popOffer_resetSeen : (s.popOffer).resetSeen = s.resetSeen := rfl
@[simp] theorem State.popOffer_out : (s.popOffer).out = s.out := rfl
@[simp] theorem State.popOffer_offers : (s.popOffer).offers = s.offers.tail := rfl
@[simp] theorem State.popOffer_answers : (s.popOffer).answers = s.answers := rfl
@[simp] theorem State.popOffer_draws : (s.popOffer).draws = s.draws := rfl
end

section
variable (s : State) (o : Offer)
@[simp] theorem State.withOffer_rxq : (s.withOffer o).rxq = s.rxq := rfl
@[simp] theorem State.withOffer_engState : (s.withOffer o).engState = s.engState := rfl
@[simp] theorem State.withOffer_permit : (s.withOffer o).permit = s.permit := rfl
@[simp] theorem State.withOffer_pending : (s.withOffer o).pending = s.pending := rfl
@[simp] theorem State.withOffer_stopCause : (s.withOffer o).stopCause = s.stopCause := rfl
@[simp] theorem State.withOffer_resetSeen : (s.withOffer o).resetSeen = s.resetSeen := rfl
@[simp] theorem State.withOffer_out : (s.withOffer o).out = s.out := rfl
@[simp] theorem State.withOffer_offers : (s.withOffer o).offers = o :: s.offers := rfl
@[simp] theorem State.withOffer_answers : (s.withOffer o).answers = s.answers := rfl
@[simp] theorem State.withOffer_draws : (s.withOffer o).draws = s.draws := rfl
end

/-! `afterDraw` changes the transport's list or the counter, and no other field. -/

@[simp] theorem State.afterDraw_rxq (s : State) : s.afterDraw.rxq = s.rxq := by
  unfold State.afterDraw; split <;> rfl
@[simp] theorem State.afterDraw_engState (s : State) : s.afterDraw.engState = s.engState := by
  unfold State.afterDraw; split <;> rfl
@[simp] theorem State.afterDraw_permit (s : State) : s.afterDraw.permit = s.permit := by
  unfold State.afterDraw; split <;> rfl
@[simp] theorem State.afterDraw_pending (s : State) : s.afterDraw.pending = s.pending := by
  unfold State.afterDraw; split <;> rfl
@[simp] theorem State.afterDraw_stopCause (s : State) : s.afterDraw.stopCause = s.stopCause := by
  unfold State.afterDraw; split <;> rfl
@[simp] theorem State.afterDraw_resetSeen (s : State) : s.afterDraw.resetSeen = s.resetSeen := by
  unfold State.afterDraw; split <;> rfl
@[simp] theorem State.afterDraw_out (s : State) : s.afterDraw.out = s.out := by
  unfold State.afterDraw; split <;> rfl
@[simp] theorem State.afterDraw_offers (s : State) : s.afterDraw.offers = s.offers := by
  unfold State.afterDraw; split <;> rfl

/-! `completePending` writes one record at most. -/

@[simp] theorem State.completePending_rxq (s : State) (o : WriteOutcome) : (s.completePending o).rxq = s.rxq := by
  unfold State.completePending; split <;> rfl
@[simp] theorem State.completePending_engState (s : State) (o : WriteOutcome) : (s.completePending o).engState = s.engState := by
  unfold State.completePending; split <;> rfl
@[simp] theorem State.completePending_permit (s : State) (o : WriteOutcome) : (s.completePending o).permit = s.permit := by
  unfold State.completePending; split <;> rfl
@[simp] theorem State.completePending_pending (s : State) (o : WriteOutcome) : (s.completePending o).pending = s.pending := by
  unfold State.completePending; split <;> rfl
@[simp] theorem State.completePending_stopCause (s : State) (o : WriteOutcome) : (s.completePending o).stopCause = s.stopCause := by
  unfold State.completePending; split <;> rfl
@[simp] theorem State.completePending_resetSeen (s : State) (o : WriteOutcome) : (s.completePending o).resetSeen = s.resetSeen := by
  unfold State.completePending; split <;> rfl
@[simp] theorem State.completePending_offers (s : State) (o : WriteOutcome) : (s.completePending o).offers = s.offers := by
  unfold State.completePending; split <;> rfl
@[simp] theorem State.completePending_answers (s : State) (o : WriteOutcome) : (s.completePending o).answers = s.answers := by
  unfold State.completePending; split <;> rfl
@[simp] theorem State.completePending_draws (s : State) (o : WriteOutcome) : (s.completePending o).draws = s.draws := by
  unfold State.completePending; split <;> rfl
@[simp] theorem State.completePending_out (s : State) (o : WriteOutcome) :
    (s.completePending o).out = s.out ++ completionOf s.pending o := by
  unfold State.completePending completionOf
  cases s.pending <;> simp

/-! `stop` (R150). -/

@[simp] theorem stop_rxq (c : StopCause) (s : State) : (stop c s).rxq = s.rxq := by
  simp [stop]
@[simp] theorem stop_engState (c : StopCause) (s : State) : (stop c s).engState = EngState.stopped := by
  simp [stop]
@[simp] theorem stop_permit (c : StopCause) (s : State) : (stop c s).permit = Permit.free := by
  simp [stop]
@[simp] theorem stop_pending (c : StopCause) (s : State) : (stop c s).pending = none := by
  simp [stop]
@[simp] theorem stop_stopCause (c : StopCause) (s : State) : (stop c s).stopCause = some c := by
  simp [stop]
@[simp] theorem stop_resetSeen (c : StopCause) (s : State) : (stop c s).resetSeen = s.resetSeen := by
  simp [stop]
@[simp] theorem stop_out (c : StopCause) (s : State) : (stop c s).out = s.out ++ completionOf s.pending (stopOutcome c) := by
  simp [stop]
@[simp] theorem stop_offers (c : StopCause) (s : State) : (stop c s).offers = s.offers := by
  simp [stop]
@[simp] theorem stop_answers (c : StopCause) (s : State) : (stop c s).answers = s.answers := by
  simp [stop]
@[simp] theorem stop_draws (c : StopCause) (s : State) : (stop c s).draws = s.draws := by
  simp [stop]

/-! `resolve` (R113): the fields it never writes. -/

@[simp] theorem resolve_rxq (o : WriteOutcome) (s : State) : (resolve o s).rxq = s.rxq := by
  unfold resolve; split <;> rfl
@[simp] theorem resolve_stopCause (o : WriteOutcome) (s : State) : (resolve o s).stopCause = s.stopCause := by
  unfold resolve; split <;> rfl
@[simp] theorem resolve_resetSeen (o : WriteOutcome) (s : State) : (resolve o s).resetSeen = s.resetSeen := by
  unfold resolve; split <;> rfl
@[simp] theorem resolve_offers (o : WriteOutcome) (s : State) : (resolve o s).offers = s.offers := by
  unfold resolve; split <;> rfl
@[simp] theorem resolve_answers (o : WriteOutcome) (s : State) : (resolve o s).answers = s.answers := by
  unfold resolve; split <;> rfl
@[simp] theorem resolve_draws (o : WriteOutcome) (s : State) : (resolve o s).draws = s.draws := by
  unfold resolve; split <;> rfl

/-- Two states with the same fields are the same state. -/
theorem State.ext_fields {s t : State} (h1 : s.rxq = t.rxq) (h2 : s.engState = t.engState) (h3 : s.permit = t.permit)
    (h4 : s.pending = t.pending) (h5 : s.stopCause = t.stopCause) (h6 : s.resetSeen = t.resetSeen)
    (h7 : s.out = t.out) (h8 : s.offers = t.offers) (h9 : s.answers = t.answers) (h10 : s.draws = t.draws) : s = t := by
  cases s; cases t; simp_all

end Sys2Proof.Machine
end

