-- ==== Sys2Proof/Laws/Codec.lean ====
section
/-! SUPPORT. The codec and the boundary detector over byte strings written out by their parts. -/

namespace Sys2Proof.Machine

/-! ### Checksums -/

theorem xorFold_eq (bs : List Byte) : xorFold bs = bs.foldl (· ^^^ ·) 0#8 := rfl

/-- The span of a string written as first byte, span, last byte (R72). -/
theorem checksumSpan_wrap (first last : Byte) (span : List Byte) :
    checksumSpan (first :: (span ++ [last])) = span := by
  simp [checksumSpan]

theorem checksum_wrap (first last : Byte) (span : List Byte) :
    checksum (first :: (span ++ [last])) = ~~~(span.foldl (· ^^^ ·) 0#8) := by
  rw [checksum, checksumSpan_wrap]; rfl

theorem updateChecksum_wrap (first last : Byte) (span : List Byte) :
    updateChecksum (first :: (span ++ [last])) = first :: (span ++ [~~~(span.foldl (· ^^^ ·) 0#8)]) := by
  rw [updateChecksum, checksum_wrap, ← List.cons_append, List.dropLast_concat, List.cons_append]

/-- The exclusive-or of a run with one more byte in front. -/
theorem foldl_xor_start (a : Byte) (bs : List Byte) :
    bs.foldl (· ^^^ ·) a = a ^^^ bs.foldl (· ^^^ ·) 0#8 := by
  induction bs generalizing a with
  | nil => simp
  | cons b bs ih => rw [List.foldl_cons, ih, List.foldl_cons, ih (0#8 ^^^ b), BitVec.zero_xor, BitVec.xor_assoc]

theorem foldl_xor_append (as bs : List Byte) :
    (as ++ bs).foldl (· ^^^ ·) 0#8 = as.foldl (· ^^^ ·) 0#8 ^^^ bs.foldl (· ^^^ ·) 0#8 := by
  rw [List.foldl_append, foldl_xor_start]

/-! ### ENCODE and FRAME -/

theorem encodeFrame_small {ps : List Byte} (mt cmd : Byte) (h : ps.length ≤ 252) :
    encodeFrame mt cmd ps = .ok ([0x01#8, BitVec.ofNat 8 (ps.length + 3), mt, cmd] ++ ps ++ [0x00#8]) := by
  have : ¬ Config.PARAM_MAX < ps.length := by simp [Config.PARAM_MAX]; omega
  rw [encodeFrame, if_neg this]; rfl

theorem encodeFrame_large {ps : List Byte} (mt cmd : Byte) (h : 252 < ps.length) :
    encodeFrame mt cmd ps = .error .parametersTooLarge := by
  have : Config.PARAM_MAX < ps.length := by simpa [Config.PARAM_MAX] using h
  rw [encodeFrame, if_pos this]

/-- FRAME byte by byte (R78, R52). -/
theorem frameBytes_small {ps : List Byte} (mt cmd : Byte) (h : ps.length ≤ 252) :
    frameBytes mt cmd ps = .ok ([0x01#8, BitVec.ofNat 8 (ps.length + 3), mt, cmd] ++ ps ++
      [~~~(([BitVec.ofNat 8 (ps.length + 3), mt, cmd] ++ ps).foldl (· ^^^ ·) 0#8)]) := by
  rw [frameBytes, encodeFrame_small mt cmd h]
  exact congrArg _ (updateChecksum_wrap 0x01#8 0x00#8 ([BitVec.ofNat 8 (ps.length + 3), mt, cmd] ++ ps))

theorem frameBytes_large {ps : List Byte} (mt cmd : Byte) (h : 252 < ps.length) :
    frameBytes mt cmd ps = .error .parametersTooLarge := by
  rw [frameBytes, encodeFrame_large mt cmd h]

/-! ### DECODE by the shape of its operand -/

theorem decodeFrame_single (x : Byte) : decodeFrame [x] = .ok (.control (kind x)) := by
  simp [decodeFrame, byteAt]

theorem decodeFrame_badHeader (x y : Byte) (t : List Byte) (h : x ≠ 0x01#8) :
    decodeFrame (x :: y :: t) = .error .badHeader := by
  simp [decodeFrame, byteAt, Config.SOF, h]

/-- DECODE of a string that starts with SOF, by the length of what follows the Length byte (R75). -/
theorem decodeFrame_sof (l : Byte) (t : List Byte) :
    decodeFrame (0x01#8 :: l :: t) =
      if t.length < 3 then .error .frameTooSmall
      else if 256 < t.length then .error .frameTooBig
      else if l.toNat ≠ t.length then .error .lengthMismatch
      else if byteAt (0x01#8 :: l :: t) (t.length + 1) ≠ checksum (0x01#8 :: l :: t) then .error .checksumMismatch
      else .ok (.data (fieldsOf (0x01#8 :: l :: t))) := by
  have h1 : (0x01#8 :: l :: t).length = t.length + 2 := rfl
  have h2 : byteAt (0x01#8 :: l :: t) 0 = Config.SOF := rfl
  have h3 : byteAt (0x01#8 :: l :: t) 1 = l := rfl
  rw [decodeFrame, h1, h2, h3, if_neg (by omega), if_neg (by omega), if_neg (by simp)]
  have a1 : (t.length + 2 < Config.FRAME_MIN) = (t.length < 3) := by simp [Config.FRAME_MIN]; omega
  have a2 : (Config.FRAME_BIG < t.length + 2) = (256 < t.length) := by simp [Config.FRAME_BIG]; omega
  simp only [a1, a2, Nat.add_sub_cancel]
  rfl

/-- DECODE of a complete data frame written out by its fields (R52, R75). -/
theorem decodeFrame_layout (l mt cmd c : Byte) (ps : List Byte) (h : l.toNat = ps.length + 3) :
    decodeFrame ([0x01#8, l, mt, cmd] ++ ps ++ [c]) =
      if c ≠ ~~~(([l, mt, cmd] ++ ps).foldl (· ^^^ ·) 0#8) then .error .checksumMismatch
      else .ok (.data { messageType := mt, command := cmd, parameters := ps, checksum := c }) := by
  have hl : l.toNat < 256 := l.isLt
  have e : [0x01#8, l, mt, cmd] ++ ps ++ [c] = 0x01#8 :: l :: ([mt, cmd] ++ ps ++ [c]) := rfl
  have ht : ([mt, cmd] ++ ps ++ [c]).length = ps.length + 3 := by simp
  have hb : byteAt (0x01#8 :: l :: ([mt, cmd] ++ ps ++ [c])) (ps.length + 3 + 1) = c := by
    simp [byteAt]
  have hk : checksum (0x01#8 :: l :: ([mt, cmd] ++ ps ++ [c])) =
      ~~~(([l, mt, cmd] ++ ps).foldl (· ^^^ ·) 0#8) := checksum_wrap 0x01#8 c ([l, mt, cmd] ++ ps)
  have hf : fieldsOf (0x01#8 :: l :: ([mt, cmd] ++ ps ++ [c])) =
      { messageType := mt, command := cmd, parameters := ps, checksum := c } := by
    simp [fieldsOf, byteAt, parametersOf]
  rw [e, decodeFrame_sof, ht, if_neg (by omega), if_neg (by omega), if_neg (by simpa using h), hb, hk, hf]

/-- Every string of 5 bytes or more, by the parts of the layout R52. -/
theorem layout_of_length {b : List Byte} (h : 5 ≤ b.length) :
    ∃ x l mt cmd ps c, b = [x, l, mt, cmd] ++ ps ++ [c] := by
  match b, h with
  | x :: l :: mt :: cmd :: y :: t, _ =>
    obtain ⟨ps, c, hc⟩ : ∃ ps c, y :: t = ps ++ [c] :=
      ⟨(y :: t).dropLast, (y :: t).getLast (by simp), (List.dropLast_append_getLast (by simp)).symm⟩
    exact ⟨x, l, mt, cmd, ps, c, by simp [hc]⟩

/-- What a string is when DECODE returns a data frame for it (R75, R79). -/
theorem layout_of_decodeFrame_data {b : List Byte} {d : DataFrame} (h : decodeFrame b = .ok (.data d)) :
    ∃ l, b = [0x01#8, l, d.messageType, d.command] ++ d.parameters ++ [d.checksum] ∧
      l.toNat = d.parameters.length + 3 ∧
      d.checksum = ~~~(([l, d.messageType, d.command] ++ d.parameters).foldl (· ^^^ ·) 0#8) := by
  match b with
  | [] => simp [decodeFrame] at h
  | [x] => simp [decodeFrame_single] at h
  | x :: y :: t =>
    by_cases hx : x = 0x01#8
    · subst hx
      have h' := h
      rw [decodeFrame_sof] at h
      split at h
      · simp at h
      · split at h
        · simp at h
        · split at h
          · simp at h
          · rename_i h1 h2 h3
            obtain ⟨x', l, mt, cmd, ps, c, e⟩ := layout_of_length (b := 0x01#8 :: y :: t) (by simp; omega)
            have hx' : x' = 0x01#8 := by simpa using (congrArg List.head? e).symm
            have hy : y = l := by simpa using congrArg (fun z => z.tail.head?) e
            subst hx' hy
            have hlen : t.length = ps.length + 3 := by
              have := congrArg List.length e; simp at this; omega
            rw [e, decodeFrame_layout y mt cmd c ps (by simp at h3; omega)] at h'
            split at h'
            · simp at h'
            · rename_i hc
              simp at h' hc
              subst h'
              exact ⟨y, e, by simpa [hlen] using h3, by simpa using hc⟩
    · rw [decodeFrame_badHeader x y t hx] at h; simp at h

theorem valid_iff {b : List Byte} : valid b = true ↔ ∃ d, decodeFrame b = .ok (.data d) := by
  unfold valid; split <;> simp_all

/-- The frame of at most 252 parameters is valid (R78, R80). -/
theorem decodeFrame_frame (mt cmd : Byte) {ps : List Byte} (h : ps.length ≤ 252) :
    decodeFrame ([0x01#8, BitVec.ofNat 8 (ps.length + 3), mt, cmd] ++ ps ++
      [~~~(([BitVec.ofNat 8 (ps.length + 3), mt, cmd] ++ ps).foldl (· ^^^ ·) 0#8)]) =
      .ok (.data {
        messageType := mt
        command := cmd
        parameters := ps
        checksum := ~~~(([BitVec.ofNat 8 (ps.length + 3), mt, cmd] ++ ps).foldl (· ^^^ ·) 0#8) }) := by
  rw [decodeFrame_layout _ _ _ _ _ (by simp; omega)]; simp

/-! ### BOUNDARY -/

theorem boundary_control {h : Byte} (t : List Byte) (hh : h ≠ 0x01#8) : boundary (h :: t) = .found 1 := by
  simp [boundary, Config.SOF, hh]

theorem boundary_sof (l : Byte) (t : List Byte) :
    boundary (0x01#8 :: l :: t) = if t.length < l.toNat then .needMore else .found (l.toNat + 2) := by
  simp [boundary, Config.SOF]

/-- The two ways BOUNDARY finds a frame (R90). -/
theorem boundary_found {q : List Byte} {n : Nat} (h : boundary q = .found n) :
    (∃ x t, q = x :: t ∧ x ≠ 0x01#8 ∧ n = 1) ∨
    (∃ l t, q = 0x01#8 :: l :: t ∧ l.toNat ≤ t.length ∧ n = l.toNat + 2) := by
  match q with
  | [] => simp [boundary] at h
  | [x] =>
    by_cases hx : x = 0x01#8
    · subst hx; simp [boundary, Config.SOF] at h
    · rw [boundary_control _ hx] at h; injection h with h; exact .inl ⟨x, [], rfl, hx, h.symm⟩
  | x :: l :: t =>
    by_cases hx : x = 0x01#8
    · subst hx
      rw [boundary_sof] at h
      split at h
      · simp at h
      · injection h with h; exact .inr ⟨l, t, rfl, by omega, h.symm⟩
    · rw [boundary_control _ hx] at h; injection h with h; exact .inl ⟨x, _, rfl, hx, h.symm⟩

theorem boundary_found_bounds {q : List Byte} {n : Nat} (h : boundary q = .found n) :
    1 ≤ n ∧ n ≤ q.length ∧ n ≤ 257 := by
  rcases boundary_found h with ⟨x, t, rfl, _, rfl⟩ | ⟨l, t, rfl, hl, rfl⟩
  · simp
  · have := l.isLt; simp; omega

/-! ### FRAMES -/

/-- Two bounds that cover the string's length give the same frames (R96). -/
theorem framesUpTo_congr (j k : Nat) (s : List Byte) (hj : s.length ≤ j) (hk : s.length ≤ k) :
    framesUpTo j s = framesUpTo k s := by
  induction j generalizing k s with
  | zero =>
    have : s = [] := List.length_eq_zero_iff.1 (by omega)
    subst this
    cases k <;> rfl
  | succ j ih =>
    cases k with
    | zero =>
      have : s = [] := List.length_eq_zero_iff.1 (by omega)
      subst this; rfl
    | succ k =>
      rw [framesUpTo, framesUpTo]
      cases hb : boundary s with
      | needMore => rfl
      | found n =>
        have hn := boundary_found_bounds hb
        simp only
        rw [ih k (s.drop n) (by simp; omega) (by simp; omega)]

/-- The first frame and the frames after it (R96). -/
theorem frames_found {s : List Byte} {n : Nat} (h : boundary s = .found n) :
    frames s = s.take n :: frames (s.drop n) := by
  have hn := boundary_found_bounds h
  obtain ⟨k, hk⟩ : ∃ k, s.length = k + 1 := ⟨s.length - 1, by omega⟩
  rw [frames, hk, framesUpTo, h]
  simp only
  rw [frames, framesUpTo_congr k _ _ (by simp; omega) (Nat.le_refl _)]

theorem frames_needMore {s : List Byte} (h : boundary s = .needMore) : frames s = [] := by
  unfold frames
  cases s.length with
  | zero => rfl
  | succ k => rw [framesUpTo, h]

end Sys2Proof.Machine
end

