-- ==== Sys2Proof/Laws/Ops.lean ====
section
/-! SUPPORT. One lemma per shared operation: everything it can do, for later proofs to cite instead of unfolding it. -/

namespace Sys2Proof.Machine

/-! ### Signals -/

/-- The read loop runs exactly while the engine is not stopped (R12). -/
theorem State.running_iff (s : State) : s.running = true ↔ s.engState ≠ .stopped := by
  unfold State.running; cases s.engState <;> simp

theorem State.running_of_ne {s : State} (h : s.engState ≠ .stopped) : s.running = true := s.running_iff.2 h

theorem State.not_running_of_stopped {s : State} (h : s.engState = .stopped) : s.running = false := by
  unfold State.running; rw [h]

theorem hasFrame_of_found {q : List Byte} {n : Nat} (h : boundary q = .found n) : hasFrame q = true := by
  unfold hasFrame; rw [h]

theorem hasFrame_of_needMore {q : List Byte} (h : boundary q = .needMore) : hasFrame q = false := by
  unfold hasFrame; rw [h]

theorem exists_found_of_hasFrame {q : List Byte} (h : hasFrame q = true) : ∃ n, boundary q = .found n := by
  unfold hasFrame at h; cases hb : boundary q with
  | needMore => simp [hb] at h
  | found n => exact ⟨n, rfl⟩

theorem needMore_of_not_hasFrame {q : List Byte} (h : hasFrame q = false) : boundary q = .needMore := by
  unfold hasFrame at h; cases hb : boundary q with
  | needMore => rfl
  | found n => simp [hb] at h

/-- `frame_avail` (R19) gives the two requirements of RX_EXTRACT (R94). -/
theorem State.frameAvail_iff (s : State) :
    s.frameAvail = true ↔ s.engState ≠ .stopped ∧ ∃ n, boundary s.rxq = .found n := by
  unfold State.frameAvail
  rw [Bool.and_eq_true, State.running_iff]
  exact ⟨fun ⟨a, b⟩ => ⟨a, exists_found_of_hasFrame b⟩, fun ⟨a, n, b⟩ => ⟨a, hasFrame_of_found b⟩⟩

/-- `rx_ready` (R19) gives the two requirements of the transport's events (R92, R126, R127). -/
theorem State.rxReady_iff (s : State) :
    s.rxReady = true ↔ s.engState ≠ .stopped ∧ boundary s.rxq = .needMore := by
  unfold State.rxReady
  rw [Bool.and_eq_true, State.running_iff, Bool.not_eq_true']
  exact ⟨fun ⟨a, b⟩ => ⟨a, needMore_of_not_hasFrame b⟩, fun ⟨a, b⟩ => ⟨a, hasFrame_of_needMore b⟩⟩

theorem State.chunkFits_iff (s : State) (c : List Byte) :
    s.chunkFits c = true ↔ 1 ≤ c.length ∧ s.rxq.length + c.length ≤ Config.RXBUF_CAP := by
  simp [State.chunkFits]

theorem State.wrReady_iff (s : State) : s.wrReady = true ↔ s.permit = .free := by
  unfold State.wrReady; cases s.permit <;> simp

/-! ### Steps that need their event enabled -/

@[simp] theorem whenEnabled_true (f : State → State) (s : State) : whenEnabled true f s = .next (f s) := rfl
@[simp] theorem whenEnabled_false (f : State → State) (s : State) : whenEnabled false f s = .next s := rfl

/-- An event whose condition guards it either has its effect or changes nothing. -/
theorem whenEnabled_cases {c : Bool} {f : State → State} {s t : State} (h : whenEnabled c f s = .next t) :
    c = true ∧ t = f s ∨ c = false ∧ t = s := by
  cases c
  · exact .inr ⟨rfl, by injection h with h; exact h.symm⟩
  · exact .inl ⟨rfl, by injection h with h; exact h.symm⟩

/-! ### The transmit, the two ends of a write, and DISPATCH -/

theorem State.txAnswer_emit (s : State) (r : OutRecord) : (s.emit r).txAnswer = s.txAnswer := rfl
theorem State.txAnswer_dropFrame (s : State) (n : Nat) : (s.dropFrame n).txAnswer = s.txAnswer := rfl
theorem State.txAnswer_registerWrite (s : State) (p : PendingWrite) : (s.registerWrite p).txAnswer = s.txAnswer := rfl

theorem State.afterDraw_emit (s : State) (r : OutRecord) : (s.emit r).afterDraw = s.afterDraw.emit r := by
  unfold State.afterDraw State.emit; cases s.answers <;> rfl

theorem State.afterDraw_dropFrame (s : State) (n : Nat) : (s.dropFrame n).afterDraw = s.afterDraw.dropFrame n := by
  unfold State.afterDraw State.dropFrame; cases s.answers <;> rfl

theorem State.afterDraw_registerWrite (s : State) (p : PendingWrite) :
    (s.registerWrite p).afterDraw = s.afterDraw.registerWrite p := by
  unfold State.afterDraw State.registerWrite; cases s.answers <;> rfl

/-- Everything `Transmit` can do (R112): all bytes out and the calling rule goes on, or a part of them out and the engine
stopped with the cause that matches the answer. -/
theorem transmitThen_cases (bs : List Byte) (k : State → State) (s : State) :
    s.txAnswer = .ok ∧ transmitThen bs k s = k (s.afterDraw.emitTx bs) ∨
    (∃ j, s.txAnswer = .ioError j ∧
      transmitThen bs k s = stop .transportIoError (s.afterDraw.emitTx (bs.take j))) ∨
    (∃ j, s.txAnswer = .closed j ∧
      transmitThen bs k s = stop .transportClosed (s.afterDraw.emitTx (bs.take j))) := by
  unfold transmitThen
  cases h : s.txAnswer with
  | ok => exact .inl ⟨rfl, rfl⟩
  | ioError j => exact .inr (.inl ⟨j, rfl, rfl⟩)
  | closed j => exact .inr (.inr ⟨j, rfl, rfl⟩)

theorem transmitThen_ok {bs : List Byte} {k : State → State} {s : State} (h : s.txAnswer = .ok) :
    transmitThen bs k s = k (s.afterDraw.emitTx bs) := by
  unfold transmitThen; rw [h]

theorem transmitThen_ioError {bs : List Byte} {k : State → State} {s : State} {j : Nat} (h : s.txAnswer = .ioError j) :
    transmitThen bs k s = stop .transportIoError (s.afterDraw.emitTx (bs.take j)) := by
  unfold transmitThen; rw [h]

theorem transmitThen_closed {bs : List Byte} {k : State → State} {s : State} {j : Nat} (h : s.txAnswer = .closed j) :
    transmitThen bs k s = stop .transportClosed (s.afterDraw.emitTx (bs.take j)) := by
  unfold transmitThen; rw [h]

/-- A transmit never touches the queue, whatever the transport answers (R11). -/
theorem transmitThen_rxq {bs : List Byte} {k : State → State} (hk : ∀ u, (k u).rxq = u.rxq) (s : State) :
    (transmitThen bs k s).rxq = s.rxq := by
  rcases transmitThen_cases bs k s with ⟨_, h⟩ | ⟨_, _, h⟩ | ⟨_, _, h⟩ <;> simp [h, hk]

theorem resolve_some {o : WriteOutcome} {s : State} {p : PendingWrite} (h : s.pending = some p) :
    resolve o s = { s.emit (.cpl p.handle o) with pending := none, permit := .free, engState := .idle } := by
  unfold resolve; rw [h]

theorem resolve_none {o : WriteOutcome} {s : State} (h : s.pending = none) : resolve o s = s := by
  unfold resolve; rw [h]

/-- DISPATCH never touches the queue: the frame has left it already (R94, R151). -/
theorem dispatch_rxq (r : Except FrameError Frame) (s : State) : (dispatch r s).rxq = s.rxq := by
  unfold dispatch
  split
  · unfold dispatchAck; split <;> simp
  · unfold dispatchNak; split <;> simp
  · unfold dispatchCan; split <;> simp
  · simp [dispatchUnknown]
  · exact transmitThen_rxq (k := fun t => t.emit (.pub _)) (fun _ => rfl) s
  · exact transmitThen_rxq (k := id) (fun _ => rfl) _

/-- RX_EXTRACT, when a frame is found (R94). -/
theorem extractFrame_found {s : State} {n : Nat} (h : boundary s.rxq = .found n) :
    extractFrame s = dispatch (decodeFrame (s.rxq.take n)) (s.dropFrame n) := by
  unfold extractFrame; rw [h]

end Sys2Proof.Machine
end

