-- ==== Sys2Proof/Laws/Output.lean ====
section
/-! SUPPORT. The outputs are written and never read (rule R23 (d)): an operation that appends the same records whatever
stands before them. -/

namespace Sys2Proof.Machine

/-- The state with other records already emitted. -/
def State.withOut (s : State) (o : List OutRecord) : State := { s with out := o }

@[simp] theorem State.withOut_rxq (s : State) (o : List OutRecord) : (s.withOut o).rxq = s.rxq := rfl
@[simp] theorem State.withOut_engState (s : State) (o : List OutRecord) : (s.withOut o).engState = s.engState := rfl
@[simp] theorem State.withOut_permit (s : State) (o : List OutRecord) : (s.withOut o).permit = s.permit := rfl
@[simp] theorem State.withOut_pending (s : State) (o : List OutRecord) : (s.withOut o).pending = s.pending := rfl
@[simp] theorem State.withOut_out (s : State) (o : List OutRecord) : (s.withOut o).out = o := rfl
@[simp] theorem State.withOut_withOut (s : State) (o p : List OutRecord) : (s.withOut o).withOut p = s.withOut p := rfl
@[simp] theorem State.withOut_self (s : State) : s.withOut s.out = s := rfl

/-- `f` appends records to the output and reads none of it. -/
def Appends (f : State → State) : Prop :=
  ∀ s : State, ∃ new, ∀ o, f (s.withOut o) = (f s).withOut (o ++ new)

/-- What an appending operation does from the state itself. -/
theorem Appends.out {f : State → State} (hf : Appends f) (s : State) :
    ∃ new, (f s).out = s.out ++ new ∧ ∀ o, f (s.withOut o) = (f s).withOut (o ++ new) := by
  obtain ⟨new, h⟩ := hf s
  exact ⟨new, by simpa using congrArg State.out (h s.out), h⟩

theorem appends_id : Appends id := fun _ => ⟨[], fun o => by simp⟩

theorem Appends.comp {f g : State → State} (hg : Appends g) (hf : Appends f) : Appends (fun s => g (f s)) := fun s => by
  obtain ⟨a, ha⟩ := hf s
  obtain ⟨b, hb⟩ := hg (f s)
  exact ⟨a ++ b, fun o => by
    show g (f (s.withOut o)) = _
    rw [ha, hb, List.append_assoc]⟩

theorem appends_emit (r : OutRecord) : Appends (fun s => s.emit r) := fun _ => ⟨[r], fun _ => rfl⟩

theorem appends_emitTx (bs : List Byte) : Appends (fun s => s.emitTx bs) := fun _ => ⟨bs.map OutRecord.tx, fun _ => rfl⟩

/-- An operation that touches no output is an appending one. -/
theorem appends_of_silent {f : State → State} (h : ∀ (s : State) o, f (s.withOut o) = (f s).withOut o) : Appends f :=
  fun s => ⟨[], fun o => by simpa using h s o⟩

/-- An operation that chooses by what is not output appends if all its choices do. -/
theorem appends_of_cases {f : State → State}
    (h : ∀ s : State, ∃ g, Appends g ∧ f s = g s ∧ ∀ o, f (s.withOut o) = g (s.withOut o)) : Appends f := fun s => by
  obtain ⟨g, hg, h1, h2⟩ := h s
  obtain ⟨new, hn⟩ := hg s
  exact ⟨new, fun o => by rw [h2, hn, h1]⟩

theorem appends_afterDraw : Appends State.afterDraw :=
  appends_of_silent fun s o => by
    unfold State.afterDraw State.withOut; cases s.answers <;> rfl

theorem appends_completePending (c : WriteOutcome) : Appends (fun s => s.completePending c) :=
  appends_of_cases fun s => by
    cases h : s.pending with
    | none => exact ⟨id, appends_id, by simp [State.completePending, h], fun o => by simp [State.completePending, h]⟩
    | some p =>
      exact ⟨_, appends_emit (.cpl p.handle c), by simp [State.completePending, h],
        fun o => by simp [State.completePending, h]⟩

theorem appends_stop (c : StopCause) : Appends (stop c) :=
  Appends.comp (f := fun s => s.completePending (stopOutcome c))
    (g := fun s => { s with pending := none, permit := .free, engState := .stopped, stopCause := some c })
    (appends_of_silent fun _ _ => rfl) (appends_completePending _)

theorem appends_resolve (c : WriteOutcome) : Appends (resolve c) :=
  appends_of_cases fun s => by
    cases h : s.pending with
    | none => exact ⟨id, appends_id, resolve_none h, fun o => resolve_none (s := s.withOut o) h⟩
    | some p =>
      exact ⟨_, Appends.comp (g := fun s => { s with pending := none, permit := .free, engState := .idle })
        (appends_of_silent fun _ _ => rfl) (appends_emit (.cpl p.handle c)), resolve_some h,
        fun o => resolve_some (s := s.withOut o) h⟩

theorem appends_transmitThen (bs : List Byte) {k : State → State} (hk : Appends k) : Appends (transmitThen bs k) :=
  appends_of_cases fun s => by
    cases h : s.txAnswer with
    | ok =>
      exact ⟨_, hk.comp ((appends_emitTx bs).comp appends_afterDraw), transmitThen_ok h,
        fun o => transmitThen_ok (s := s.withOut o) h⟩
    | ioError j =>
      exact ⟨_, (appends_stop _).comp ((appends_emitTx (bs.take j)).comp appends_afterDraw), transmitThen_ioError h,
        fun o => transmitThen_ioError (s := s.withOut o) h⟩
    | closed j =>
      exact ⟨_, (appends_stop _).comp ((appends_emitTx (bs.take j)).comp appends_afterDraw), transmitThen_closed h,
        fun o => transmitThen_closed (s := s.withOut o) h⟩

theorem appends_transmit (bs : List Byte) : Appends (transmit bs) := appends_transmitThen bs appends_id

/-- Which of two operations runs is decided by what is pending. -/
theorem appends_onPending {f : State → State} {g : PendingWrite → State → State} {h : State → State}
    (hs : ∀ s p, s.pending = some p → f s = g p s) (hn : ∀ s, s.pending = none → f s = h s)
    (hg : ∀ p, Appends (g p)) (hh : Appends h) : Appends f :=
  appends_of_cases fun s => by
    cases hp : s.pending with
    | none => exact ⟨h, hh, hn s hp, fun o => hn (s.withOut o) hp⟩
    | some p => exact ⟨g p, hg p, hs s p hp, fun o => hs (s.withOut o) p hp⟩

theorem appends_dispatchAck : Appends dispatchAck :=
  appends_onPending (g := fun _ => resolve .delivered) (fun _ _ hp => by simp [dispatchAck, hp])
    (fun _ hp => by simp [dispatchAck, hp]) (fun _ => appends_resolve _) (appends_emit (.log .unexpectedAck))

theorem appends_dispatchNak : Appends dispatchNak :=
  appends_onPending (g := fun _ => resolve .nak) (fun _ _ hp => by simp [dispatchNak, hp])
    (fun _ hp => by simp [dispatchNak, hp]) (fun _ => appends_resolve _)
    (appends_emit (.log (.unexpectedNakCan Config.NAK)))

theorem appends_dispatchCan : Appends dispatchCan :=
  appends_onPending (g := fun _ => resolve .can) (fun _ _ hp => by simp [dispatchCan, hp])
    (fun _ hp => by simp [dispatchCan, hp]) (fun _ => appends_resolve _)
    (appends_emit (.log (.unexpectedNakCan Config.CAN)))

/-- DISPATCH appends and never reads the output. -/
theorem appends_dispatch (r : Except FrameError Frame) : Appends (dispatch r) := by
  unfold dispatch
  split
  · exact appends_dispatchAck
  · exact appends_dispatchNak
  · exact appends_dispatchCan
  · exact appends_emit _
  · exact appends_transmitThen _ (appends_emit _)
  · exact (appends_transmit _).comp (appends_emit _)

/-! ### The guarded operations of the meanings -/

/-- A guard that is no output keeps an operation appending. -/
theorem appends_guard {c : State → Bool} {f : State → State} (hc : ∀ (s : State) o, c (s.withOut o) = c s)
    (hf : Appends f) : Appends (fun s => if c s then f s else s) :=
  appends_of_cases fun s => by
    cases h : c s with
    | true => exact ⟨f, hf, by simp, fun o => by simp [hc, h]⟩
    | false => exact ⟨id, appends_id, by simp, fun o => by simp [hc, h]⟩

theorem appends_appendChunk (c : List Byte) : Appends (fun s => s.appendChunk c) := appends_of_silent fun _ _ => rfl
theorem appends_dropFrame (n : Nat) : Appends (fun s => s.dropFrame n) := appends_of_silent fun _ _ => rfl
theorem appends_registerWrite (p : PendingWrite) : Appends (fun s => s.registerWrite p) :=
  appends_of_silent fun _ _ => rfl

theorem appends_extractFrame : Appends extractFrame :=
  appends_of_cases fun s => by
    cases h : boundary s.rxq with
    | needMore => exact ⟨id, appends_id, by simp [extractFrame, h], fun o => by simp [extractFrame, h]⟩
    | found n =>
      exact ⟨_, (appends_dispatch (decodeFrame (s.rxq.take n))).comp (appends_dropFrame n), extractFrame_found h,
        fun o => extractFrame_found (s := s.withOut o) h⟩

theorem appends_acceptWrite (mt cmd : Byte) (ps : List Byte) (h : Handle) (d : Option Deadline) :
    Appends (acceptWrite mt cmd ps h d) := by
  unfold acceptWrite
  cases frameBytes mt cmd ps with
  | ok f => exact (appends_transmit f).comp (appends_registerWrite _)
  | error e => cases e; exact appends_emit _

theorem appends_refuseWrite (h : Handle) : Appends (refuseWrite h) :=
  appends_of_cases fun s => by
    cases hc : s.stopCause with
    | none => exact ⟨id, appends_id, by simp [refuseWrite, hc], fun o => by simp [refuseWrite, State.withOut, hc]⟩
    | some c => exact ⟨_, appends_emit (.cpl h (stopOutcome c)), by simp [refuseWrite, hc],
        fun o => by simp [refuseWrite, State.withOut, hc]⟩

theorem appends_writeWithPermit (mt cmd : Byte) (ps : List Byte) (h : Handle) (d : Option Deadline) :
    Appends (writeWithPermit mt cmd ps h d) :=
  appends_of_cases fun s => by
    cases he : s.engState with
    | idle => exact ⟨_, appends_acceptWrite mt cmd ps h d, by simp [writeWithPermit, he],
        fun o => by simp [writeWithPermit, he]⟩
    | awaitingAck => exact ⟨id, appends_id, by simp [writeWithPermit, he], fun o => by simp [writeWithPermit, he]⟩
    | stopped => exact ⟨_, appends_refuseWrite h, by simp [writeWithPermit, he], fun o => by simp [writeWithPermit, he]⟩

end Sys2Proof.Machine
end

