-- ==== Sys2Proof/Laws/Exec.lean ====
section
/-! SUPPORT. What one event can do, said once: `DispatchEffect` for an extracted frame, `Effect` for any event. Later
proofs take the cases of these and never unfold a meaning. -/

namespace Sys2Proof.Machine

/-- `Stop` as one state (R150). -/
theorem stop_eq (c : StopCause) (s : State) : stop c s = { s with
    out := s.out ++ completionOf s.pending (stopOutcome c),
    pending := none, permit := .free, engState := .stopped, stopCause := some c } := by
  apply State.ext_fields <;> simp

/-- The cause a failed transmit stops the engine with (R112). -/
def answerStops : TxAnswer → StopCause → Prop
  | .ok, _ => False
  | .ioError _, c => c = .transportIoError
  | .closed _, c => c = .transportClosed

/-- The records DISPATCH of a data frame emits before its transmit (R120, R121). -/
def rejectionLog : Except FrameError Frame → List OutRecord
  | .ok _ => []
  | .error e => [.log (.frameRejected e)]

/-- The reply byte of a data frame (R120, R121). -/
def replyByte : Except FrameError Frame → Byte
  | .ok _ => Config.ACK
  | .error _ => Config.NAK

/-- Whether DECODE's result is that of a data frame, valid or not, and not of a control frame. -/
def isDataResult : Except FrameError Frame → Prop
  | .ok (.control _) => False
  | .ok (.data _) => True
  | .error _ => True

/-- DECODE of a string that starts with SOF and has a Length byte is never a control frame (R75). -/
theorem isDataResult_sof (l : Byte) (t : List Byte) : isDataResult (decodeFrame (0x01#8 :: l :: t)) := by
  rw [decodeFrame_sof]
  split
  · trivial
  · split
    · trivial
    · split
      · trivial
      · split <;> trivial

/-- What BOUNDARY cuts is a control frame when it has one byte, and data, valid or not, when it starts with SOF (R95). -/
theorem found_isDataResult {q : List Byte} {n : Nat} (h : boundary q = .found n) :
    isDataResult (decodeFrame (q.take n)) ↔ q.head? = some 0x01#8 := by
  rcases boundary_found h with ⟨x, t, rfl, hx, rfl⟩ | ⟨l, t, rfl, hl, rfl⟩
  · simp [decodeFrame_single, isDataResult, hx]
  · simpa using isDataResult_sof l (t.take l.toNat)

/-- Everything DISPATCH can do (R115 to R121). -/
inductive DispatchEffect (r : Except FrameError Frame) (s : State) : State → Prop where
  | resolved (k : ControlKind) (p : PendingWrite) (o : WriteOutcome) (hr : r = .ok (.control k))
      (hk : k = .ack ∧ o = .delivered ∨ k = .nak ∧ o = .nak ∨ k = .can ∧ o = .can) (hp : s.pending = some p) :
      DispatchEffect r s { s with
        out := s.out ++ [.cpl p.handle o], pending := none, permit := .free, engState := .idle }
  | logged (k : ControlKind) (x : LogRecord) (hr : r = .ok (.control k))
      (hk : s.pending = none ∨ ∃ b, k = .unknown b) :
      DispatchEffect r s { s with out := s.out ++ [.log x] }
  | published (d : DataFrame) (hr : r = .ok (.data d)) (ha : s.txAnswer = .ok) :
      DispatchEffect r s { s.afterDraw with out := s.out ++ [.tx Config.ACK, .pub d] }
  | rejected (e : FrameError) (hr : r = .error e) (ha : s.txAnswer = .ok) :
      DispatchEffect r s { s.afterDraw with out := s.out ++ [.log (.frameRejected e), .tx Config.NAK] }
  | failed (j : Nat) (c : StopCause) (hr : isDataResult r) (ha : answerStops s.txAnswer c) :
      DispatchEffect r s { s.afterDraw with
        out := s.out ++ (rejectionLog r ++ ([replyByte r].take j).map OutRecord.tx ++ completionOf s.pending (stopOutcome c)),
        pending := none, permit := .free, engState := .stopped, stopCause := some c }

theorem dispatch_effect (r : Except FrameError Frame) (s : State) : DispatchEffect r s (dispatch r s) := by
  match r with
  | .ok (.control .ack) =>
    cases hp : s.pending with
    | some p =>
      have e : dispatch (.ok (.control .ack)) s = resolve .delivered s := by rw [dispatch, dispatchAck, hp]
      rw [e, resolve_some hp]; exact .resolved .ack p .delivered rfl (by simp) hp
    | none =>
      have e : dispatch (.ok (.control .ack)) s = s.emit (.log .unexpectedAck) := by rw [dispatch, dispatchAck, hp]
      rw [e]; exact .logged .ack _ rfl (.inl hp)
  | .ok (.control .nak) =>
    cases hp : s.pending with
    | some p =>
      have e : dispatch (.ok (.control .nak)) s = resolve .nak s := by rw [dispatch, dispatchNak, hp]
      rw [e, resolve_some hp]; exact .resolved .nak p .nak rfl (by simp) hp
    | none =>
      have e : dispatch (.ok (.control .nak)) s = s.emit (.log (.unexpectedNakCan Config.NAK)) := by
        rw [dispatch, dispatchNak, hp]
      rw [e]; exact .logged .nak _ rfl (.inl hp)
  | .ok (.control .can) =>
    cases hp : s.pending with
    | some p =>
      have e : dispatch (.ok (.control .can)) s = resolve .can s := by rw [dispatch, dispatchCan, hp]
      rw [e, resolve_some hp]; exact .resolved .can p .can rfl (by simp) hp
    | none =>
      have e : dispatch (.ok (.control .can)) s = s.emit (.log (.unexpectedNakCan Config.CAN)) := by
        rw [dispatch, dispatchCan, hp]
      rw [e]; exact .logged .can _ rfl (.inl hp)
  | .ok (.control (.unknown x)) => exact .logged (.unknown x) _ rfl (.inr ⟨x, rfl⟩)
  | .ok (.data d) =>
    rcases transmitThen_cases [Config.ACK] (fun t => t.emit (.pub d)) s with ⟨ha, e⟩ | ⟨j, ha, e⟩ | ⟨j, ha, e⟩
    · have e' : dispatch (.ok (.data d)) s = { s.afterDraw with out := s.out ++ [.tx Config.ACK, .pub d] } := by
        rw [dispatch, dispatchData, e]; simp [State.emit, State.emitTx]
      rw [e']; exact .published d rfl ha
    · have f := DispatchEffect.failed (r := .ok (.data d)) (s := s) j .transportIoError trivial (by rw [ha]; rfl)
      rw [dispatch, dispatchData, e, stop_eq]
      simpa [State.emitTx, rejectionLog, replyByte] using f
    · have f := DispatchEffect.failed (r := .ok (.data d)) (s := s) j .transportClosed trivial (by rw [ha]; rfl)
      rw [dispatch, dispatchData, e, stop_eq]
      simpa [State.emitTx, rejectionLog, replyByte] using f
  | .error x =>
    have ht : (s.emit (.log (.frameRejected x))).txAnswer = s.txAnswer := rfl
    rcases transmitThen_cases [Config.NAK] id (s.emit (.log (.frameRejected x))) with ⟨ha, e⟩ | ⟨j, ha, e⟩ | ⟨j, ha, e⟩
    · have e' : dispatch (.error x) s =
          { s.afterDraw with out := s.out ++ [.log (.frameRejected x), .tx Config.NAK] } := by
        rw [dispatch, dispatchError, transmit, e, State.afterDraw_emit]; simp [State.emit, State.emitTx]
      rw [e']; exact .rejected x rfl ha
    · have f := DispatchEffect.failed (r := .error x) (s := s) j .transportIoError trivial (by rw [← ht, ha]; rfl)
      rw [dispatch, dispatchError, transmit, e, stop_eq, State.afterDraw_emit]
      simpa [State.emit, State.emitTx, rejectionLog, replyByte] using f
    · have f := DispatchEffect.failed (r := .error x) (s := s) j .transportClosed trivial (by rw [← ht, ha]; rfl)
      rw [dispatch, dispatchError, transmit, e, stop_eq, State.afterDraw_emit]
      simpa [State.emit, State.emitTx, rejectionLog, replyByte] using f

/-- The frame an instruction hands to DISPATCH, and the state DISPATCH starts from: the wire rows (R115), or the frame
at the head of the queue (R94). -/
inductive Dispatches (s : State) : Instr → List Byte → State → Prop where
  | data (l : Byte) (body : List Byte) : Dispatches s (.data l body) (Config.SOF :: l :: body) s
  | ack : Dispatches s .ack [Config.ACK] s
  | nak : Dispatches s .nak [Config.NAK] s
  | can : Dispatches s .can [Config.CAN] s
  | extract (n : Nat) (h : boundary s.rxq = .found n) : Dispatches s .rxExtract (s.rxq.take n) (s.dropFrame n)

/-- The operations of the codec port (R58). -/
inductive PortOp : Instr → Prop where
  | checksum (b : List Byte) : PortOp (.checksum b)
  | encode (mt cmd : Byte) (ps : List Byte) : PortOp (.encode mt cmd ps)
  | updateChecksum (b : List Byte) : PortOp (.updateChecksum b)
  | decode (b : List Byte) : PortOp (.decode b)
  | boundary (q : List Byte) : PortOp (.boundary q)

/-- Everything one event can do to the state. -/
inductive Effect (s : State) : Instr → State → Prop where
  /-- Not enabled, or a no-op (R123, R124, R125, R144); a WRITE is passed over with the permit free only in a state that
  breaks R16 (log 10). -/
  | nothing (i : Instr) (hi : acceptedHandles i s = [] ∨ s.permit = .free ∧ s.engState = .awaitingAck ∨
      s.engState = .stopped ∧ s.stopCause = none) : Effect s i s
  | reset : Effect s .reset { s with
      rxq := [], engState := .idle, permit := .free, pending := none, stopCause := none, resetSeen := true }
  /-- A codec operation: a result on the port (R70). -/
  | port (i : Instr) (r : PortResult) (hi : PortOp i) : Effect s i { s with out := s.out ++ [.port r] }
  | chunk (c : List Byte) (hr : s.engState ≠ .stopped) (hb : boundary s.rxq = .needMore)
      (hl : s.rxq.length + c.length ≤ Config.RXBUF_CAP) : Effect s (.rxChunk c) { s with rxq := s.rxq ++ c }
  | stopped (i : Instr) (c : StopCause) (hr : s.engState ≠ .stopped)
      (hi : i = .shutdown ∨ i = .rxClose ∨ i = .rxError) : Effect s i { s with
        out := s.out ++ completionOf s.pending (stopOutcome c),
        pending := none, permit := .free, engState := .stopped, stopCause := some c }
  | abandoned (i : Instr) (p : PendingWrite) (o : WriteOutcome) (hp : s.pending = some p)
      (hi : i = .cancel p.handle ∨ i = .timeout p.handle ∧ s.pendingHasDeadline = true) : Effect s i { s with
        out := s.out ++ [.cpl p.handle o], pending := none, permit := .free, engState := .idle }
  | oversize (mt cmd : Byte) (ps : List Byte) (h : Handle) (d : Option Deadline) (hp : s.permit = .free)
      (he : s.engState = .idle) : Effect s (.write mt cmd ps h d) { s with out := s.out ++ [.cpl h .parametersTooLarge] }
  | refused (mt cmd : Byte) (ps : List Byte) (h : Handle) (d : Option Deadline) (o : WriteOutcome)
      (hp : s.permit = .free) (he : s.engState = .stopped) :
      Effect s (.write mt cmd ps h d) { s with out := s.out ++ [.cpl h o] }
  | written (mt cmd : Byte) (ps : List Byte) (h : Handle) (d : Option Deadline) (f : List Byte) (hp : s.permit = .free)
      (he : s.engState = .idle) (hl : ps.length ≤ 252) (hf : frameBytes mt cmd ps = .ok f) (ha : s.txAnswer = .ok) :
      Effect s (.write mt cmd ps h d) { s.afterDraw with
        out := s.out ++ f.map OutRecord.tx, permit := .held,
        pending := some { frame := f, handle := h, deadline := d }, engState := .awaitingAck }
  | writeFailed (mt cmd : Byte) (ps : List Byte) (h : Handle) (d : Option Deadline) (f : List Byte) (j : Nat)
      (c : StopCause) (hp : s.permit = .free) (he : s.engState = .idle) (hl : ps.length ≤ 252)
      (hf : frameBytes mt cmd ps = .ok f) (ha : answerStops s.txAnswer c) :
      Effect s (.write mt cmd ps h d) { s.afterDraw with
        out := s.out ++ ((f.take j).map OutRecord.tx ++ [.cpl h (stopOutcome c)]), permit := .free,
        pending := none, engState := .stopped, stopCause := some c }
  /-- The UNKNOWN row, for a header of its own or not: it is logged (R119). -/
  | unknown (x : Byte) (hr : s.engState ≠ .stopped) :
      Effect s (.unknown x) { s with out := s.out ++ [.log (.unknownControl x)] }
  | frame (i : Instr) (f : List Byte) (s0 t : State) (hr : s.engState ≠ .stopped) (hd : Dispatches s i f s0)
      (ht : DispatchEffect (decodeFrame f) s0 t) : Effect s i t

/-- A WRITE that is accepted from Idle (R110, R114). -/
theorem acceptWrite_effect (mt cmd : Byte) (ps : List Byte) (h : Handle) (d : Option Deadline) (s : State)
    (hp : s.permit = .free) (he : s.engState = .idle) :
    Effect s (.write mt cmd ps h d) (acceptWrite mt cmd ps h d s) := by
  by_cases hl : ps.length ≤ 252
  · have hf := frameBytes_small mt cmd hl
    generalize hf' : [0x01#8, BitVec.ofNat 8 (ps.length + 3), mt, cmd] ++ ps ++
      [~~~(([BitVec.ofNat 8 (ps.length + 3), mt, cmd] ++ ps).foldl (· ^^^ ·) 0#8)] = f at hf
    rw [acceptWrite, hf]
    simp only [transmit]
    have ht : (s.registerWrite { frame := f, handle := h, deadline := d }).txAnswer = s.txAnswer := rfl
    rcases transmitThen_cases f id (s.registerWrite { frame := f, handle := h, deadline := d })
      with ⟨ha, e⟩ | ⟨j, ha, e⟩ | ⟨j, ha, e⟩
    · rw [e, State.afterDraw_registerWrite]
      simpa [State.emitTx, State.registerWrite] using Effect.written mt cmd ps h d f hp he hl hf ha
    · rw [e, stop_eq, State.afterDraw_registerWrite]
      simpa [State.emitTx, State.registerWrite, completionOf] using
        Effect.writeFailed (s := s) mt cmd ps h d f j .transportIoError hp he hl hf (by rw [← ht, ha]; rfl)
    · rw [e, stop_eq, State.afterDraw_registerWrite]
      simpa [State.emitTx, State.registerWrite, completionOf] using
        Effect.writeFailed (s := s) mt cmd ps h d f j .transportClosed hp he hl hf (by rw [← ht, ha]; rfl)
  · rw [acceptWrite, frameBytes_large mt cmd (by omega)]
    exact .oversize mt cmd ps h d hp he

theorem writeWithPermit_effect (mt cmd : Byte) (ps : List Byte) (h : Handle) (d : Option Deadline) (s : State)
    (hp : s.permit = .free) : Effect s (.write mt cmd ps h d) (writeWithPermit mt cmd ps h d s) := by
  unfold writeWithPermit
  split
  · exact acceptWrite_effect mt cmd ps h d s hp ‹_›
  · unfold refuseWrite
    split
    · exact .refused mt cmd ps h d _ hp ‹_›
    · exact .nothing _ (.inr (.inr ⟨‹_›, ‹_›⟩))
  · exact .nothing _ (.inr (.inl ⟨hp, ‹_›⟩))

/-- The effect of an event that its condition guards. -/
theorem whenEnabled_effect {i : Instr} {c : Bool} {f : State → State} {s t : State}
    (hn : c = false → acceptedHandles i s = []) (hf : c = true → Effect s i (f s))
    (h : whenEnabled c f s = .next t) : Effect s i t := by
  rcases whenEnabled_cases h with ⟨hc, rfl⟩ | ⟨hc, rfl⟩
  · exact hf hc
  · exact .nothing i (.inl (hn hc))

theorem pendingHas_elim {s : State} {h : Handle} (hh : s.pendingHas h = true) :
    ∃ p, s.pending = some p ∧ p.handle = h := by
  unfold State.pendingHas at hh
  split at hh
  · exact ⟨_, ‹_›, by simpa using hh⟩
  · simp at hh

/-- What an event can do: the one inversion of `exec`. -/
theorem exec_effect {i : Instr} {s t : State} (h : exec i s = .next t) : Effect s i t := by
  cases i with
  | data l body =>
    exact whenEnabled_effect (fun _ => rfl) (fun hc => .frame _ _ s _ (s.running_iff.1 hc) (.data l body) (dispatch_effect _ s)) h
  | ack =>
    refine whenEnabled_effect (fun _ => rfl) (f := dispatchAck) (fun hc => ?_) h
    have e := dispatch_effect (decodeFrame [Config.ACK]) s
    exact .frame _ _ s _ (s.running_iff.1 hc) .ack e
  | nak =>
    refine whenEnabled_effect (fun _ => rfl) (f := dispatchNak) (fun hc => ?_) h
    exact .frame _ _ s _ (s.running_iff.1 hc) .nak (dispatch_effect (decodeFrame [Config.NAK]) s)
  | can =>
    refine whenEnabled_effect (fun _ => rfl) (f := dispatchCan) (fun hc => ?_) h
    exact .frame _ _ s _ (s.running_iff.1 hc) .can (dispatch_effect (decodeFrame [Config.CAN]) s)
  | unknown x => exact whenEnabled_effect (fun _ => rfl) (fun hc => .unknown x (s.running_iff.1 hc)) h
  | reset => injection h with h; subst h; exact .reset
  | write mt cmd ps hd d =>
    exact whenEnabled_effect 
      (fun hc => if_neg fun hp => by rw [State.wrReady, hp] at hc; cases hc) (fun hc => writeWithPermit_effect mt cmd ps hd d s (s.wrReady_iff.1 hc)) h
  | cancel hd =>
    refine whenEnabled_effect (fun _ => rfl) (fun hc => ?_) h
    obtain ⟨p, hp, rfl⟩ := pendingHas_elim hc
    rw [resolve_some hp]; exact .abandoned _ p _ hp (.inl rfl)
  | timeout hd =>
    refine whenEnabled_effect (fun _ => rfl) (fun hc => ?_) h
    rw [Bool.and_eq_true] at hc
    obtain ⟨p, hp, rfl⟩ := pendingHas_elim hc.1
    rw [resolve_some hp]; exact .abandoned _ p _ hp (.inr ⟨rfl, hc.2⟩)
  | shutdown =>
    refine whenEnabled_effect (fun _ => rfl) (fun hc => ?_) h
    rw [stop_eq]; exact .stopped _ _ (s.running_iff.1 hc) (by simp)
  | rxChunk c =>
    refine whenEnabled_effect (fun _ => rfl) (f := fun t => t.appendChunk c) (fun hc => ?_) h
    rw [Bool.and_eq_true, State.rxReady_iff, State.chunkFits_iff] at hc
    exact .chunk c hc.1.1 hc.1.2 hc.2.2
  | rxClose =>
    refine whenEnabled_effect (fun _ => rfl) (fun hc => ?_) h
    rw [stop_eq]; exact .stopped _ _ (s.rxReady_iff.1 hc).1 (by simp)
  | rxError =>
    refine whenEnabled_effect (fun _ => rfl) (fun hc => ?_) h
    rw [stop_eq]; exact .stopped _ _ (s.rxReady_iff.1 hc).1 (by simp)
  | rxExtract =>
    refine whenEnabled_effect (fun _ => rfl) (fun hc => ?_) h
    obtain ⟨hr, n, hn⟩ := s.frameAvail_iff.1 hc
    rw [extractFrame_found hn]
    exact .frame _ _ _ _ hr (.extract n hn) (dispatch_effect _ _)
  | checksum b =>
    simp only [exec, execChecksum] at h
    split at h
    · simp at h
    · injection h with h; subst h; exact .port _ _ (.checksum b)
  | encode mt cmd ps => injection h with h; subst h; exact .port _ _ (.encode mt cmd ps)
  | updateChecksum b =>
    simp only [exec, execUpdateChecksum] at h
    split at h
    · simp at h
    · injection h with h; subst h; exact .port _ _ (.updateChecksum b)
  | decode b => injection h with h; subst h; exact .port _ _ (.decode b)
  | boundary q => injection h with h; subst h; exact .port _ _ (.boundary q)

end Sys2Proof.Machine
end

