-- ==== Sys2Proof/Laws/PerInstr.lean ====
section
/-! SUPPORT. Statements made for each instruction. Family TableRow: the words of an instruction begin with the header
byte, or carry the ordinal, that spec/opcode_table.json gives its row. -/

namespace Sys2Proof.Laws.TableRow

/-- The header byte of a wire row (R55), the ordinal of an event row (R58); for UNKNOWN, the header is its operand. -/
def header : Instr → Option Byte
  | .data _ _ => some 0x01#8
  | .ack => some 0x06#8
  | .nak => some 0x15#8
  | .can => some 0x18#8
  | .unknown x => some x
  | _ => none

/-- The ordinal of an event row (R58). -/
def ordinal : Instr → Option Nat
  | .reset => some 0x0
  | .write _ _ _ _ _ => some 0x1
  | .cancel _ => some 0x2
  | .timeout _ => some 0x3
  | .shutdown => some 0x4
  | .rxChunk _ => some 0x5
  | .rxClose => some 0x6
  | .rxError => some 0x7
  | .rxExtract => some 0x8
  | .checksum _ => some 0x9
  | .encode _ _ _ => some 0xA
  | .updateChecksum _ => some 0xB
  | .decode _ => some 0xC
  | .boundary _ => some 0xD
  | _ => none

/-- The first byte of the words on the wire, and the ordinal of the words on the event port. -/
def Statement (i : Instr) : Prop :=
  (∀ bytes, encode i = .wire bytes → bytes.head? = header i ∧ ordinal i = none) ∧
  (∀ o, encode i = .event o → some o.ordinal.toNat = ordinal i ∧ header i = none)

theorem of_wire {i : Instr} {bytes : List Byte} (h : encode i = .wire bytes) (hh : bytes.head? = header i)
    (ho : ordinal i = none) : Statement i := by
  constructor <;> intro x hx <;> rw [h] at hx <;> cases hx
  exact ⟨hh, ho⟩

theorem of_event {i : Instr} {o : Offer} (h : encode i = .event o) (ho : some o.ordinal.toNat = ordinal i)
    (hh : header i = none) : Statement i := by
  constructor <;> intro x hx <;> rw [h] at hx <;> cases hx
  exact ⟨ho, hh⟩

theorem data (length : Byte) (body : List Byte) : Statement (.data length body) := of_wire rfl rfl rfl
theorem ack : Statement .ack := of_wire rfl rfl rfl
theorem nak : Statement .nak := of_wire rfl rfl rfl
theorem can : Statement .can := of_wire rfl rfl rfl
theorem unknown (x : Byte) : Statement (.unknown x) := of_wire rfl rfl rfl
theorem reset : Statement .reset := of_event rfl rfl rfl
theorem write (mt cmd : Byte) (ps : List Byte) (h : Handle) (d : Option Deadline) :
    Statement (.write mt cmd ps h d) := of_event rfl rfl rfl
theorem cancel (h : Handle) : Statement (.cancel h) := of_event rfl rfl rfl
theorem timeout (h : Handle) : Statement (.timeout h) := of_event rfl rfl rfl
theorem shutdown : Statement .shutdown := of_event rfl rfl rfl
theorem rxChunk (chunk : List Byte) : Statement (.rxChunk chunk) := of_event rfl rfl rfl
theorem rxClose : Statement .rxClose := of_event rfl rfl rfl
theorem rxError : Statement .rxError := of_event rfl rfl rfl
theorem rxExtract : Statement .rxExtract := of_event rfl rfl rfl
theorem checksum (b : List Byte) : Statement (.checksum b) := of_event rfl rfl rfl
theorem encode (mt cmd : Byte) (ps : List Byte) : Statement (.encode mt cmd ps) := of_event rfl rfl rfl
theorem updateChecksum (b : List Byte) : Statement (.updateChecksum b) := of_event rfl rfl rfl
theorem decode (b : List Byte) : Statement (.decode b) := of_event rfl rfl rfl
theorem boundary (q : List Byte) : Statement (.boundary q) := of_event rfl rfl rfl

end Sys2Proof.Laws.TableRow
end

