-- ==== Sys2Proof/Tests/Slice0.lean ====
section
/-! SUPPORT. The model's own tests. Expected values come from the spec: the encoding tables of R52, R55 and R58, the
vectors of 95_test_vectors.md (named V-… or P…), or the rule a test names. Then a witness for the hypotheses of each
statement, clause by clause. -/

namespace Sys2Proof.Tests

open Sys2Proof.Machine

/-- `([..], Idle, Free, None, NoStop)` as the vectors write it, the transport's next answer being Ok. -/
def idleWith (rxq : List Byte) : State := { State.reset with rxq := rxq, answers := [.ok] }

/-- The frame `f20` of the vectors: REQ(0x20, []). -/
def f20 : List Byte := [0x01#8, 0x03#8, 0x00#8, 0x20#8, 0xDC#8]

/-- The frame `r20` of the vectors: RSP(0x20, []). -/
def r20 : List Byte := [0x01#8, 0x03#8, 0x01#8, 0x20#8, 0xDD#8]

def h1 : Handle := ⟨1⟩
def h2 : Handle := ⟨2⟩

/-- `(rxq, AwaitingAck, Held, {f20, h1, deadline}, NoStop)`. -/
def awaiting (rxq : List Byte) (deadline : Option Deadline) : State :=
  { idleWith rxq with
    engState := .awaitingAck, permit := .held, pending := some { frame := f20, handle := h1, deadline := deadline } }

/-- `(rxq, Stopped, Free, None, cause)`. -/
def stoppedWith (rxq : List Byte) (c : StopCause) : State :=
  { idleWith rxq with engState := .stopped, stopCause := some c }

/-- The five elements of the unit, as the vectors write a state. -/
structure Elements where
  rxq : List Byte
  engState : EngState
  permit : Permit
  pending : Option PendingWrite
  stopCause : Option StopCause
  deriving DecidableEq, Repr

def unitOf (s : State) : Elements := ⟨s.rxq, s.engState, s.permit, s.pending, s.stopCause⟩

/-- The next state of an outcome. -/
def nextOf (o : Host.Outcome State Fault Refusal) : Option State :=
  match o with
  | .next s => some s
  | .fault _ => none
  | .refused _ => none

/-- The refusal of an outcome. -/
def refusalOf (o : Host.Outcome State Fault Refusal) : Option Refusal :=
  match o with
  | .next _ => none
  | .fault _ => none
  | .refused r => some r

/-- The unit's five elements and the records after one event. -/
def result (i : Instr) (s : State) : Option (Elements × List OutRecord) :=
  (nextOf (exec i s)).map fun t => (unitOf t, t.out)

def offer (ordinal : BitVec 4) (p : Operands) : Offer := { ordinal := ordinal, operands := p }

/-! ### Well-formedness: an ill-formed term for each check -/

theorem smoke_data_body_too_short : (Instr.data 0x03#8 [0x00#8, 0x20#8]).wf = false := by decide
theorem smoke_unknown_is_sof : (Instr.unknown 0x01#8).wf = false := by decide
theorem smoke_unknown_is_ack : (Instr.unknown 0x06#8).wf = false := by decide
theorem smoke_unknown_is_nak : (Instr.unknown 0x15#8).wf = false := by decide
theorem smoke_unknown_is_can : (Instr.unknown 0x18#8).wf = false := by decide
theorem smoke_chunk_empty : (Instr.rxChunk []).wf = false := by decide
set_option maxRecDepth 20000 in
theorem smoke_chunk_too_long : (Instr.rxChunk (List.replicate 259 0x00#8)).wf = false := by decide
theorem smoke_checksum_too_short : (Instr.checksum [0x01#8]).wf = false := by decide
theorem smoke_updateChecksum_too_short : (Instr.updateChecksum []).wf = false := by decide

/-! ### Decoding: a word of each row, written out from R52, R55 and R58 -/

theorem test_decode_data : decodeWire (f20 ++ [0x06#8]) = .ok (.data 0x03#8 [0x00#8, 0x20#8, 0xDC#8], [0x06#8]) := by
  decide
theorem test_decode_control : [0x06#8, 0x15#8, 0x18#8, 0x7F#8].map (fun x => decodeWire [x]) =
    [.ok (.ack, []), .ok (.nak, []), .ok (.can, []), .ok (.unknown 0x7F#8, [])] := by decide
theorem test_decode_incomplete : decodeWire [0x01#8, 0x02#8, 0xAA#8] = .error .frameIncomplete := by decide
theorem test_decode_reset : decodeOffer (offer 0b0000#4 {}) = .ok .reset := by decide
theorem test_decode_write :
    decodeOffer (offer 0b0001#4
      { messageType := 0x01#8, command := 0x15#8, bytes := [0x5A#8], handle := h1, deadline := some ⟨9⟩ }) =
    .ok (.write 0x01#8 0x15#8 [0x5A#8] h1 (some ⟨9⟩)) := by decide
theorem test_decode_cancel : decodeOffer (offer 0b0010#4 { handle := h2 }) = .ok (.cancel h2) := by decide
theorem test_decode_timeout : decodeOffer (offer 0b0011#4 { handle := h2 }) = .ok (.timeout h2) := by decide
theorem test_decode_shutdown : decodeOffer (offer 0b0100#4 {}) = .ok .shutdown := by decide
theorem test_decode_rxChunk : decodeOffer (offer 0b0101#4 { bytes := [0x06#8] }) = .ok (.rxChunk [0x06#8]) := by decide
theorem test_decode_rxClose : decodeOffer (offer 0b0110#4 {}) = .ok .rxClose := by decide
theorem test_decode_rxError : decodeOffer (offer 0b0111#4 {}) = .ok .rxError := by decide
theorem test_decode_rxExtract : decodeOffer (offer 0b1000#4 {}) = .ok .rxExtract := by decide
theorem test_decode_checksum : decodeOffer (offer 0b1001#4 { bytes := f20 }) = .ok (.checksum f20) := by decide
theorem test_decode_encode :
    decodeOffer (offer 0b1010#4 { messageType := 0x01#8, command := 0x04#8, bytes := [0x02#8] }) =
    .ok (.encode 0x01#8 0x04#8 [0x02#8]) := by decide
theorem test_decode_updateChecksum : decodeOffer (offer 0b1011#4 { bytes := f20 }) = .ok (.updateChecksum f20) := by
  decide
theorem test_decode_decode : decodeOffer (offer 0b1100#4 { bytes := f20 }) = .ok (.decode f20) := by decide
theorem test_decode_boundary : decodeOffer (offer 0b1101#4 { bytes := f20 }) = .ok (.boundary f20) := by decide
theorem test_decode_unassigned : decodeOffer (offer 0b1110#4 {}) = .error (.unassignedOrdinal 0xE#4) := by decide

theorem test_table_event_word : decodeTableWord 8 0x8 = some .rxExtract := by decide
theorem test_table_wire_word : decodeTableWord 8 0x15 = some .nak := by decide
theorem test_fetch_event_word : nextOf (step (State.reset.withFetchWord 8 0x4)) =
    nextOf (exec .shutdown State.reset) := by decide
theorem test_fetch_wire_word : (nextOf (step (State.reset.withFetchWord 8 0x18))).map State.out =
    some [.log (.unexpectedNakCan 0x18#8)] := by decide

/-! ### The codec: V-FR, V-K, V-DE, V-B -/

/-- V-FR10. -/
theorem test_frame_V_FR10 : frameBytes 0x00#8 0x13#8 [0x05#8, 0x02#8, 0x25#8, 0x01#8] =
    .ok [0x01#8, 0x07#8, 0x00#8, 0x13#8, 0x05#8, 0x02#8, 0x25#8, 0x01#8, 0xC8#8] := by decide
/-- V-FR6, ENCODE column. -/
theorem test_encode_V_FR6 : (result (.encode 0x00#8 0x41#8 [0x01#8]) State.reset).map Prod.snd =
    some [.port (.encode (.ok [0x01#8, 0x04#8, 0x00#8, 0x41#8, 0x01#8, 0x00#8]))] := by decide
set_option maxRecDepth 20000 in
/-- V-FR15. -/
theorem test_encode_V_FR15 : (result (.encode 0x00#8 0x13#8 (List.replicate 253 0x00#8)) State.reset).map Prod.snd =
    some [.port (.encode (.error .parametersTooLarge))] := by decide
set_option maxRecDepth 20000 in
/-- V-FR14: the longest frame; Length 0xFF, checksum 0x01. -/
theorem test_frame_V_FR14 : frameBytes 0x01#8 0x00#8 (List.replicate 252 0x00#8) =
    .ok ([0x01#8, 0xFF#8, 0x01#8, 0x00#8] ++ List.replicate 252 0x00#8 ++ [0x01#8]) := by decide
/-- V-K7. -/
theorem test_checksum_V_K7 : (result (.checksum [0xAA#8, 0x55#8, 0xFF#8]) State.reset).map Prod.snd =
    some [.port (.checksum 0xAA#8)] := by decide
/-- V-K8. -/
theorem test_checksum_V_K8 : refusalOf (exec (.checksum [0x01#8]) State.reset) = some .checksumTooShort := by decide
/-- R74: `01 03 00 20 77` gives `01 03 00 20 DC`. -/
theorem test_updateChecksum : (result (.updateChecksum [0x01#8, 0x03#8, 0x00#8, 0x20#8, 0x77#8]) State.reset).map Prod.snd =
    some [.port (.updateChecksum f20)] := by decide
theorem test_updateChecksum_short : refusalOf (exec (.updateChecksum []) State.reset) = some .updateChecksumTooShort := by
  decide
/-- V-DE23: header values inside a frame are data. -/
theorem test_decode_V_DE23 :
    decodeFrame [0x01#8, 0x07#8, 0x00#8, 0x06#8, 0x06#8, 0x15#8, 0x18#8, 0x01#8, 0xF4#8] = .ok (.data {
      messageType := 0x00#8, command := 0x06#8, parameters := [0x06#8, 0x15#8, 0x18#8, 0x01#8], checksum := 0xF4#8 }) := by
  decide
/-- V-DE8, V-DE9, V-DE14, V-DE20, V-DE21, V-DE22. -/
theorem test_decode_V_DE_errors : [[0x01#8], [0x06#8, 0x00#8], [0x01#8, 0x09#8, 0x00#8],
    [0x01#8, 0x03#8, 0x00#8, 0x20#8, 0xDD#8], [0x01#8, 0x04#8, 0x00#8, 0x20#8, 0xDC#8], f20 ++ [0x00#8]].map decodeFrame =
    [.ok (.control (.unknown 0x01#8)), .error .badHeader, .error .frameTooSmall, .error .checksumMismatch,
     .error .lengthMismatch, .error .lengthMismatch] := by decide
set_option maxRecDepth 20000 in
/-- V-DE25 and V-DE27: 258 and 259 bytes. -/
theorem test_decode_V_DE25_27 :
    decodeFrame ([0x01#8, 0xFF#8] ++ List.replicate 256 0x00#8) = .error .lengthMismatch ∧
    decodeFrame ([0x01#8, 0xFF#8] ++ List.replicate 257 0x00#8) = .error .frameTooBig := by decide
/-- V-B4, V-B5, V-B6, V-B7, V-B10, V-B11, V-B14. -/
theorem test_boundary_V_B : [[0x01#8], [0x01#8, 0x00#8], [0x01#8, 0x02#8, 0xAA#8], [0x01#8, 0x02#8, 0xAA#8, 0xBB#8],
    f20 ++ [0x06#8], [0x01#8, 0x05#8, 0x00#8, 0x20#8, 0xDC#8], [0x06#8, 0x01#8]].map boundary =
    [.needMore, .found 2, .needMore, .found 4, .found 5, .needMore, .found 1] := by decide
/-- V-R4: a stray `01 03` swallows a frame. -/
theorem test_frames_V_R4 : frames ([0x01#8, 0x03#8] ++ f20) =
    [[0x01#8, 0x03#8, 0x01#8, 0x03#8, 0x00#8], [0x20#8], [0xDC#8]] := by decide

/-! ### Single events: V-E -/

/-- V-E1. -/
theorem test_write_V_E1 : result (.write 0x00#8 0x20#8 [] h1 none) (idleWith []) =
    some (unitOf (awaiting [] none), f20.map .tx) := by decide
/-- V-E28: three bytes get out. -/
theorem test_write_V_E28 : result (.write 0x00#8 0x20#8 [] h1 none) { idleWith [] with answers := [.ioError 3] } =
    some (⟨[], .stopped, .free, none, some .transportIoError⟩,
      [.tx 0x01#8, .tx 0x03#8, .tx 0x00#8, .cpl h1 .transportIoError]) := by decide
/-- V-E5. -/
theorem test_extract_ack_V_E5 : result .rxExtract (awaiting [0x06#8] none) =
    some (unitOf (idleWith []), [.cpl h1 .delivered]) := by decide
/-- V-E31: the reply fails after one byte. -/
theorem test_extract_V_E31 : result .rxExtract
    { awaiting [0x01#8, 0x03#8, 0x00#8, 0x20#8, 0x00#8] none with answers := [.ioError 1] } =
    some (⟨[], .stopped, .free, none, some .transportIoError⟩,
      [.log (.frameRejected .checksumMismatch), .tx 0x15#8, .cpl h1 .transportIoError]) := by decide
/-- V-E12: published, and the write stays pending. -/
theorem test_data_V_E12 : result (.data 0x03#8 [0x01#8, 0x20#8, 0xDD#8]) (awaiting [] none) =
    some (unitOf (awaiting [] none), [.tx 0x06#8, .pub {
      messageType := 0x01#8, command := 0x20#8, parameters := [], checksum := 0xDD#8 }]) := by decide
/-- V-E30: the ACK fails, nothing is published. -/
theorem test_data_V_E30 : result (.data 0x03#8 [0x01#8, 0x20#8, 0xDD#8]) { idleWith [0x06#8] with answers := [.closed 0] } =
    some (⟨[0x06#8], .stopped, .free, none, some .transportClosed⟩, []) := by decide
/-- V-E9. -/
theorem test_ack_V_E9 : result .ack (idleWith []) = some (unitOf (idleWith []), [.log .unexpectedAck]) := by decide
/-- V-E6. -/
theorem test_nak_V_E6 : result .nak (awaiting [] none) = some (unitOf (idleWith []), [.cpl h1 .nak]) := by decide
/-- V-E11. -/
theorem test_can_V_E11 : result .can (idleWith []) =
    some (unitOf (idleWith []), [.log (.unexpectedNakCan 0x18#8)]) := by decide
/-- V-E8. -/
theorem test_unknown_V_E8 : result (.unknown 0x7F#8) (awaiting [] none) =
    some (unitOf (awaiting [] none), [.log (.unknownControl 0x7F#8)]) := by decide
/-- V-E14. -/
theorem test_timeout_V_E14 : result (.timeout h1) (awaiting [] (some ⟨0⟩)) =
    some (unitOf (idleWith []), [.cpl h1 .writeTimedOut]) := by decide
/-- V-E15: no deadline. -/
theorem test_timeout_V_E15 : result (.timeout h1) (awaiting [] none) = some (unitOf (awaiting [] none), []) := by decide
/-- V-E17. -/
theorem test_cancel_V_E17 : result (.cancel h1) (awaiting [0x01#8, 0x03#8] none) =
    some (unitOf (idleWith [0x01#8, 0x03#8]), [.cpl h1 .writeCanceled]) := by decide
theorem test_cancel_other_handle : result (.cancel h2) (awaiting [] none) = some (unitOf (awaiting [] none), []) := by
  decide
/-- V-E19. -/
theorem test_shutdown_V_E19 : result .shutdown (awaiting [0x01#8] none) =
    some (unitOf (stoppedWith [0x01#8] .shutdown), [.cpl h1 .writeCanceled]) := by decide
/-- V-E27. -/
theorem test_shutdown_V_E27 : result .shutdown (stoppedWith [] .transportClosed) =
    some (unitOf (stoppedWith [] .transportClosed), []) := by decide
/-- V-E21. -/
theorem test_rxClose_V_E21 : result .rxClose (awaiting [0x01#8, 0x03#8] none) =
    some (unitOf (stoppedWith [0x01#8, 0x03#8] .transportClosed), [.cpl h1 .transportClosed]) := by decide
/-- V-E22. -/
theorem test_rxError_V_E22 : result .rxError (awaiting [] none) =
    some (unitOf (stoppedWith [] .transportIoError), [.cpl h1 .transportIoError]) := by decide
/-- V-E23: a frame waits, so the transport's events are not enabled. -/
theorem test_rxChunk_V_E23 : result (.rxChunk [0x00#8]) (idleWith [0x06#8]) = some (unitOf (idleWith [0x06#8]), []) := by
  decide
/-- R92's example. -/
theorem test_rxChunk_example : result (.rxChunk [0x03#8, 0x00#8]) (idleWith [0x01#8]) =
    some (unitOf (idleWith [0x01#8, 0x03#8, 0x00#8]), []) := by decide
/-- V-E33: the pending write never completes. -/
theorem test_reset_V_E33 : result .reset (awaiting [0x01#8, 0x03#8] none) = some (unitOf (idleWith []), []) := by decide

/-! ### Witnesses: the hypotheses of each statement can be met -/

set_option maxRecDepth 20000 in
/-- A well-formed frame of each length the boundary can cut at its edges, and a chunk as long as the queue. -/
theorem witness_DecodeInvertsEncode : (Instr.data 0x00#8 []).wf = true ∧
    (Instr.data 0xFF#8 (List.replicate 255 0x00#8)).wf = true ∧ (Instr.unknown 0x02#8).wf = true ∧
    (Instr.rxChunk (List.replicate 258 0x01#8)).wf = true ∧ (Instr.checksum [0x00#8, 0x00#8]).wf = true := by decide
theorem witness_WireDecodingReadsTheBoundary :
    decodeWire [0x01#8, 0x00#8, 0x06#8] = .ok (.data 0x00#8 [], [0x06#8]) := by decide
theorem witness_HeaderByteSelectsTheKind :
    decodeWire [0x00#8] = .ok (.unknown 0x00#8, []) ∧ decodeWire [0xFF#8] = .ok (.unknown 0xFF#8, []) ∧
    ([0x05#8] : List Byte).length = (0x01#8 : Byte).toNat := by decide
theorem witness_FrameLengthFromHeaderAndLength : (0x00#8 : Byte) ≠ 0x01#8 := by decide
theorem witness_StepRunsTheOfferedEvent :
    (State.reset.withOffer (offer 0x8#4 {})).offers = [offer 0x8#4 {}] ∧ decodeOffer (offer 0x8#4 {}) = .ok .rxExtract := by
  decide
theorem witness_UnassignedOrdinalsAreRefused :
    (State.reset.withOffer (offer 0xF#4 {})).offers = [offer 0xF#4 {}] ∧ (0xD#4 : BitVec 4) ≠ 0xE#4 ∧
    (0xD#4 : BitVec 4) ≠ 0xF#4 := by decide
theorem witness_UnofferedStepExtractsOrIdles :
    ((idleWith [0x06#8]).offers = [] ∧ (idleWith [0x06#8]).frameAvail = true) ∧
    ((idleWith [0x01#8]).offers = [] ∧ (idleWith [0x01#8]).frameAvail = false) ∧
    ({ State.reset with resetSeen := false }).resetSeen = false := by decide
theorem witness_ExtractRunsTheDecodedFrame :
    (idleWith [0x01#8, 0x00#8]).engState ≠ .stopped ∧
    decodeWire (idleWith [0x01#8, 0x00#8]).rxq = .ok (.data 0x00#8 [], []) := by decide
/-- Each refusal is met, and so is a step that goes on. -/
theorem witness_RefusalsAreTheSpecsOwn :
    refusalOf (step (State.reset.withOffer (offer 0xE#4 {}))) = some (.undecodable (.unassignedOrdinal 0xE#4)) ∧
    refusalOf (step ({ State.reset with resetSeen := false }.withOffer (offer 0x4#4 {}))) = some .beforeFirstReset ∧
    refusalOf (step (State.reset.withOffer (offer 0x9#4 { bytes := [0x00#8] }))) = some .checksumTooShort ∧
    refusalOf (step (State.reset.withOffer (offer 0xB#4 {}))) = some .updateChecksumTooShort ∧
    nextOf (step State.reset) = some State.reset := by decide
theorem witness_EveryStepKeepsTheInvariants : UnitInv (awaiting [0x06#8] none) ∧
    (nextOf (step (awaiting [0x06#8] none))).isSome = true := by decide
theorem witness_ReachableStatesMeetTheInvariants : Reachable (idleWith []) := .reset [] [.ok] 0
/-- The effect, and the ways a write ends while the engine runs: an extracted ACK, and a CANCEL. -/
theorem witness_ResolveEndsThePendingWrite : UnitInv (awaiting [0x06#8] none) ∧
    (awaiting [0x06#8] none).pending = some { frame := f20, handle := h1, deadline := none } ∧
    nextOf (exec .rxExtract (awaiting [0x06#8] none)) = some { idleWith [] with out := [.cpl h1 .delivered] } ∧
    nextOf (exec (.cancel h1) (awaiting [0x06#8] none)) =
      some { idleWith [0x06#8] with out := [.cpl h1 .writeCanceled] } ∧ (idleWith []).pending = none ∧
    (idleWith []).engState ≠ .stopped := by decide
theorem witness_AckNakCan : (awaiting [] none).engState ≠ .stopped ∧ (awaiting [] none).pending.isSome = true ∧
    (idleWith []).engState ≠ .stopped ∧ (idleWith []).pending = none := by decide
theorem witness_UnknownControlIsOnlyLogged : (0x02#8 : Byte) ≠ 0x01#8 ∧ (0x02#8 : Byte) ≠ 0x06#8 ∧
    (0x02#8 : Byte) ≠ 0x15#8 ∧ (0x02#8 : Byte) ≠ 0x18#8 ∧ (idleWith []).engState ≠ .stopped := by decide
theorem witness_ValidDataIsAckedThenPublished : (idleWith []).engState ≠ .stopped ∧
    decodeFrame (0x01#8 :: 0x03#8 :: [0x01#8, 0x20#8, 0xDD#8]) = .ok (.data {
      messageType := 0x01#8, command := 0x20#8, parameters := [], checksum := 0xDD#8 }) ∧
    (idleWith []).txAnswer = .ok ∧ ({ idleWith [] with answers := [.ioError 1] }).txAnswer = .ioError 1 ∧
    ({ idleWith [] with answers := [.closed 0] }).txAnswer = .closed 0 := by decide
theorem witness_InvalidDataIsNakedAndDropped :
    decodeFrame (0x01#8 :: 0x00#8 :: []) = .error .frameTooSmall ∧
    decodeFrame (0x01#8 :: 0x03#8 :: [0x00#8, 0x20#8, 0x00#8]) = .error .checksumMismatch ∧
    ({ awaiting [] none with answers := [.ioError 0] }).txAnswer = .ioError 0 ∧
    ({ awaiting [] none with answers := [.closed 1] }).txAnswer = .closed 1 := by decide
theorem witness_AnswersAreTakenInOrder : (idleWith []).answers = [.ok] ∧ State.reset.answers = [] ∧
    (idleWith []).txAnswer = .ok ∧ ({ idleWith [] with answers := [.ioError 0] }).txAnswer = .ioError 0 ∧
    ({ idleWith [] with answers := [.closed 1] }).txAnswer = .closed 1 := by decide
set_option maxRecDepth 20000 in
theorem witness_WriteTransmitsAndRegisters : (idleWith []).permit = .free ∧ (idleWith []).engState = .idle ∧
    (List.replicate 252 (0x00#8 : Byte)).length ≤ 252 ∧ (idleWith []).txAnswer = .ok ∧
    ({ idleWith [] with answers := [.ioError 3] }).txAnswer = .ioError 3 ∧
    ({ idleWith [] with answers := [.closed 257] }).txAnswer = .closed 257 := by decide
set_option maxRecDepth 20000 in
theorem witness_OversizeWriteOnlyCompletes : (idleWith []).permit = .free ∧ (idleWith []).engState = .idle ∧
    252 < (List.replicate 253 (0x00#8 : Byte)).length := by decide
theorem witness_WriteWhileStoppedGetsTheStopOutcome :
    (stoppedWith [] .transportClosed).permit = .free ∧ (stoppedWith [] .transportClosed).engState = .stopped ∧
    (stoppedWith [] .transportClosed).stopCause = some .transportClosed ∧
    (stoppedWith [] .transportIoError).stopCause = some .transportIoError ∧
    (stoppedWith [] .shutdown).stopCause = some .shutdown := by decide
theorem witness_WriteWaitsWhileThePermitIsHeld : (awaiting [] none).permit = .held := by decide
theorem witness_CancelAndTimeout : (awaiting [] (some ⟨0⟩)).pending =
      some { frame := f20, handle := h1, deadline := some ⟨0⟩ } ∧ h1 ≠ h2 ∧
    (awaiting [] none).pending = some { frame := f20, handle := h1, deadline := none } ∧ (idleWith []).pending = none := by
  decide
theorem witness_StopShutdownCloseError : (awaiting [0x01#8, 0x03#8] none).engState ≠ .stopped ∧
    boundary (awaiting [0x01#8, 0x03#8] none).rxq = .needMore ∧ (stoppedWith [] .shutdown).engState = .stopped ∧
    ({ idleWith [] with answers := [.ioError 2] }).txAnswer = .ioError 2 ∧
    ({ idleWith [] with answers := [.closed 2] }).txAnswer = .closed 2 := by decide
theorem witness_OnlyResetLeavesStopped : UnitInv (stoppedWith [0x06#8] .shutdown) ∧
    nextOf (exec (.write 0x00#8 0x02#8 [] h2 none) (stoppedWith [0x06#8] .shutdown)) =
      some { stoppedWith [0x06#8] .shutdown with out := [.cpl h2 .writeCanceled] } := by decide
theorem witness_EngineChangesAreTheTableRows : UnitInv (awaiting [0x18#8] none) ∧
    (nextOf (exec .rxExtract (awaiting [0x18#8] none))).map State.engState = some .idle ∧
    (awaiting [0x18#8] none).engState = .awaitingAck := by decide
set_option maxRecDepth 20000 in
/-- A chunk of 1 byte, and one that just fills the queue. -/
theorem witness_ChunkIsAppendedToTheQueue : (idleWith []).engState ≠ .stopped ∧ boundary (idleWith []).rxq = .needMore ∧
    (idleWith []).rxq.length + (List.replicate 258 (0x00#8 : Byte)).length ≤ Config.RXBUF_CAP ∧
    1 ≤ ([0x00#8] : List Byte).length := by decide
theorem witness_ExtractRemovesAndDispatches : (idleWith [0x01#8, 0x00#8]).engState ≠ .stopped ∧
    boundary (idleWith [0x01#8, 0x00#8]).rxq = .found 2 := by decide
set_option maxRecDepth 20000 in
theorem witness_DisabledReaderEventsChangeNothing : (stoppedWith [0x06#8] .shutdown).engState = .stopped ∧
    boundary (idleWith [0x06#8]).rxq = .found 1 ∧ boundary (idleWith [0x01#8]).rxq = .needMore ∧
    Config.RXBUF_CAP < (idleWith [0x01#8]).rxq.length + (List.replicate 258 (0x00#8 : Byte)).length := by decide
/-- An empty chunk offered while the unit takes bytes: passed over, and not RX_CLOSE. -/
theorem witness_DisabledReaderEvents_empty : (idleWith [0x01#8]).rxReady = true ∧
    nextOf (exec (.rxChunk []) (idleWith [0x01#8])) = some (idleWith [0x01#8]) ∧
    nextOf (exec .rxClose (idleWith [0x01#8])) = some (stoppedWith [0x01#8] .transportClosed) := by decide
theorem witness_SignalsReadTheState : (idleWith []).rxReady = true ∧ (idleWith [0x06#8]).frameAvail = true ∧
    (idleWith []).wrReady = true := by decide
set_option maxRecDepth 20000 in
theorem witness_MoreBytesNeverMoveABoundary : boundary [0x01#8, 0x00#8] = .found 2 ∧ boundary [0x06#8] = .found 1 ∧
    boundary ([0x01#8, 0xFF#8] ++ List.replicate 255 0x00#8) = .found 257 := by decide
set_option maxRecDepth 20000 in
/-- A queue of 256 bytes still takes two (V-R6). -/
theorem witness_QueueAlwaysHasRoomForTwo :
    (idleWith ([0x01#8, 0xFF#8] ++ List.replicate 254 0x00#8)).rxReady = true := by decide
/-- P2's chunk in two pieces: one frame out, an incomplete tail left. -/
theorem witness_FramesDoNotDependOnChunking :
    ReaderRun (idleWith []) ([0x06#8, 0x01#8] ++ ([0x03#8] ++ [])) [[0x06#8]]
      { idleWith [0x01#8, 0x03#8] with out := [.log .unexpectedAck] } ∧
    boundary (idleWith [0x01#8, 0x03#8]).rxq = .needMore :=
  ⟨.chunk (t := idleWith [0x06#8, 0x01#8]) (by decide) (by decide) rfl
    (.extract (n := 1) (t := { idleWith [0x01#8] with out := [.log .unexpectedAck] }) (by decide) (by decide) rfl
      (.chunk (t := { idleWith [0x01#8, 0x03#8] with out := [.log .unexpectedAck] }) (by decide) (by decide) rfl
        (.done _))), by decide⟩
/-- Frames of 1, 2, 4 and 5 bytes. -/
theorem witness_ExtractedFramesDecodeAs : boundary [0x00#8] = .found 1 ∧ boundary [0x01#8, 0x00#8] = .found 2 ∧
    boundary [0x01#8, 0x02#8, 0x00#8, 0x00#8] = .found 4 ∧ boundary f20 = .found 5 := by decide
theorem witness_OneReplyByteForEachDataFrame :
    (nextOf (exec (.rxChunk [0x00#8]) (idleWith []))).isSome = true ∧ boundary (idleWith r20).rxq = .found 5 ∧
    (nextOf (exec .rxExtract (idleWith r20))).isSome = true ∧ (idleWith r20).rxq.head? = some 0x01#8 ∧
    valid (r20.take 5) = true ∧ valid ([0x01#8, 0x00#8].take 2) = false ∧
    (idleWith [0x06#8]).rxq.head? ≠ some 0x01#8 ∧ (idleWith r20).txAnswer = .ok := by decide
theorem witness_ChecksumFoldsTheSpan : ([0x01#8] : List Byte).length < 2 ∧ ([] : List Byte).length < 2 := by decide
set_option maxRecDepth 20000 in
theorem witness_EncodeLaysOutTheFields : (List.replicate 252 (0x00#8 : Byte)).length ≤ 252 ∧
    252 < (List.replicate 253 (0x00#8 : Byte)).length := by decide
set_option maxRecDepth 20000 in
/-- Each clause at an edge of its range: 2 and 3 bytes after the Length byte, 256 and 257, and a right and a wrong
checksum. -/
theorem witness_DecodeReportsTheFirstFailingTest : (0x00#8 : Byte) ≠ 0x01#8 ∧ (0x00#8 : Byte) ≠ 0x06#8 ∧
    ([0x00#8, 0x00#8] : List Byte).length < 3 ∧ 256 < (List.replicate 257 (0x00#8 : Byte)).length ∧
    3 ≤ (List.replicate 256 (0x00#8 : Byte)).length ∧ (List.replicate 256 (0x00#8 : Byte)).length ≤ 256 ∧
    (0xFF#8 : Byte).toNat ≠ (List.replicate 256 (0x00#8 : Byte)).length ∧
    (0x03#8 : Byte).toNat = ([] : List Byte).length + 3 ∧
    (0xDC#8 : Byte) = ~~~([0x03#8, 0x00#8, 0x20#8].foldl (· ^^^ ·) 0#8) ∧
    (0x00#8 : Byte) ≠ ~~~([0x03#8, 0x00#8, 0x20#8].foldl (· ^^^ ·) 0#8) := by decide
theorem witness_BoundaryAnswersOnThePort : ([] : List Byte).length < (0x01#8 : Byte).toNat ∧
    (0x00#8 : Byte).toNat ≤ ([] : List Byte).length := by decide
theorem witness_ValidFrames : valid f20 = true ∧
    decodeFrame f20 = .ok (.data {
      messageType := 0x00#8, command := 0x20#8, parameters := [], checksum := 0xDC#8 }) := by decide
/-- The first and the last byte the checksum covers, and a byte that differs there. -/
theorem witness_OneChangedByteIsDetected : valid f20 = true ∧ f20[1]? ≠ some 0x04#8 ∧ f20[4]? ≠ some 0x00#8 ∧
    4 < f20.length := by decide
set_option maxRecDepth 20000 in
theorem witness_DecodeLengthEdges :
    ([0x01#8, 0xFF#8] ++ List.replicate 256 (0x00#8 : Byte)).length = 258 ∧
    decodeFrame ([0x01#8, 0xFF#8] ++ List.replicate 257 0x00#8) = .error .frameTooBig := by decide
theorem witness_EveryAcceptedWriteCompletesOnce : UnitInv (idleWith []) ∧
    nextOf (exec (.write 0x00#8 0x20#8 [] h1 none) (idleWith [])) =
      some { awaiting [] none with answers := [], out := f20.map .tx } := by decide
theorem witness_OneWriteInFlight : UnitInv (awaiting [0x06#8] none) ∧ (awaiting [0x06#8] none).pending.isSome = true ∧
    Steps (awaiting [0x06#8] none) [.rxExtract] { idleWith [] with out := [.cpl h1 .delivered] } ∧
    ({ idleWith [] with out := [.cpl h1 .delivered] } : State).permit = .free ∧
    nextOf (exec (.write 0x00#8 0x20#8 [] h2 none) (awaiting [] none)) = some (awaiting [] none) :=
  ⟨by decide, by decide, .event (by decide) rfl (.done _), by decide, by decide⟩
theorem witness_TxAndPub : (nextOf (exec .rxExtract (idleWith r20))).map (fun t => (txOf t.out, pubOf t.out)) =
    some ([0x06#8], [{ messageType := 0x01#8, command := 0x20#8, parameters := [], checksum := 0xDD#8 }]) := by decide
theorem witness_OutputsAreNeverRead : (nextOf (exec .ack (idleWith []))).isSome = true ∧
    refusalOf (exec (.checksum []) (idleWith [])) = some .checksumTooShort := by decide
/-- Both orders of the race run. -/
theorem witness_RacesRunInBothOrders_a :
    ((nextOf (exec .rxExtract (awaiting [0x06#8] (some ⟨0⟩)))).bind fun t => nextOf (exec (.timeout h1) t)).map State.out =
      some [.cpl h1 .delivered] ∧
    ((nextOf (exec (.timeout h1) (awaiting [0x06#8] (some ⟨0⟩)))).bind fun t => nextOf (exec .rxExtract t)).map State.out =
      some [.cpl h1 .writeTimedOut, .log .unexpectedAck] := by decide
theorem witness_LateAckResolvesTheNewWrite : UnitInv (awaiting [0x06#8] none) ∧
    (((nextOf (exec (.cancel h1) (awaiting [0x06#8] none))).bind fun t =>
      nextOf (exec (.write 0x00#8 0x02#8 [] h2 none) t)).bind fun u => nextOf (exec .rxExtract u)).isSome = true := by
  decide
theorem witness_RacesRunInBothOrders_d : UnitInv (idleWith [0x06#8]) ∧
    ((nextOf (exec .rxExtract (idleWith [0x06#8]))).bind fun t =>
      nextOf (exec (.write 0x00#8 0x02#8 [] h2 none) t)).isSome = true ∧
    ((nextOf (exec (.write 0x00#8 0x02#8 [] h2 none) (idleWith [0x06#8]))).bind fun t =>
      nextOf (exec .rxExtract t)).isSome = true := by decide

end Sys2Proof.Tests
end

section
/-! Proofs of the encoding statements O4 and O5: the header map of R55 and the length rule of R57. -/

namespace Sys2Proof.Machine

/-! ### The wire decoder by the first byte of its operand (R55, R57) -/

/-- Any header but SOF is a whole frame: a control instruction, with every byte after it left over. -/
theorem decodeWire_control {x : Byte} (rest : List Byte) (hx : x ≠ 0x01#8) :
    decodeWire (x :: rest) = .ok (controlInstr x, rest) := by
  simp [decodeWire, Config.SOF, hx]

/-- A header that is none of the three named control bytes is UNKNOWN of that byte. -/
theorem controlInstr_unknown {x : Byte} (hack : x ≠ 0x06#8) (hnak : x ≠ 0x15#8) (hcan : x ≠ 0x18#8) :
    controlInstr x = .unknown x := by
  simp [controlInstr, Config.ACK, Config.NAK, Config.CAN, hack, hnak, hcan]

/-- SOF and a Length byte take exactly as many bytes as the Length byte says, and leave the others. -/
theorem decodeWire_data {l : Byte} {body : List Byte} (rest : List Byte) (hlen : body.length = l.toNat) :
    decodeWire (0x01#8 :: l :: (body ++ rest)) = .ok (.data l body, rest) := by
  simp [decodeWire, Config.SOF, ← hlen]

/-- Settles O4: the cases are the rows of R55. -/
theorem headerByteSelectsTheKind : Obligations.HeaderByteSelectsTheKind := by
  unfold Obligations.HeaderByteSelectsTheKind
  intro x rest
  refine ⟨?ack, ?nak, ?can, ?unknown, ?data⟩
  case ack => rintro rfl; exact decodeWire_control rest (by decide)
  case nak => rintro rfl; exact decodeWire_control rest (by decide)
  case can => rintro rfl; exact decodeWire_control rest (by decide)
  case unknown =>
    intro hsof hack hnak hcan
    rw [decodeWire_control rest hsof, controlInstr_unknown hack hnak hcan]
  case data => rintro rfl l body hlen; exact decodeWire_data rest hlen

/-- Settles O5: what BOUNDARY finds after a control header, after SOF alone, and after SOF with a Length byte. -/
theorem frameLengthFromHeaderAndLength : Obligations.FrameLengthFromHeaderAndLength :=
  ⟨fun _ t hh => boundary_control t hh, by decide, boundary_sof⟩

end Sys2Proof.Machine
end

section
/-! Proof of the codec statement O49: the four conditions of R79. -/

namespace Sys2Proof.Machine

/-- The bytes between the first and the last of a string written by its fields (R52, R72). -/
theorem span_layout (x l mt cmd c : Byte) (ps : List Byte) :
    ([x, l, mt, cmd] ++ ps ++ [c]).tail.dropLast = [l, mt, cmd] ++ ps :=
  checksumSpan_wrap x c ([l, mt, cmd] ++ ps)

/-- The conditions of R79 on a string written by its fields (R52); the upper bound on its length follows from the Length
byte. -/
theorem fourConditions_layout (x l mt cmd c : Byte) (ps b : List Byte) (hb : b = [x, l, mt, cmd] ++ ps ++ [c]) :
    (b.head? = some 0x01#8 ∧ 5 ≤ b.length ∧ b.length ≤ 258 ∧
      (∃ l', b[1]? = some l' ∧ l'.toNat = b.length - 2) ∧
      b.getLast? = some (~~~((b.tail.dropLast).foldl (· ^^^ ·) 0#8))) ↔
    x = 0x01#8 ∧ l.toNat = ps.length + 3 ∧ c = ~~~(([l, mt, cmd] ++ ps).foldl (· ^^^ ·) 0#8) := by
  have hlt : l.toNat < 256 := l.isLt
  have hhead : b.head? = some x := by rw [hb]; rfl
  have hlength : b[1]? = some l := by rw [hb]; rfl
  have hlast : b.getLast? = some c := by rw [hb, List.getLast?_concat]
  have hlen : b.length = ps.length + 5 := by simp [hb]
  have hspan : b.tail.dropLast = [l, mt, cmd] ++ ps := by rw [hb, span_layout]
  rw [hhead, hlength, hlast, hlen, hspan]
  simp only [Option.some.injEq, exists_eq_left']
  constructor
  · rintro ⟨hx, -, -, hl, hc⟩
    exact ⟨hx, by omega, hc⟩
  · rintro ⟨hx, hl, hc⟩
    exact ⟨hx, by omega, by omega, by omega, hc⟩

/-- Settles O49: both sides fix the fields of the layout R52 in the same way. -/
theorem validIsTheFourConditions : Obligations.ValidIsTheFourConditions := by
  unfold Obligations.ValidIsTheFourConditions
  intro b
  constructor
  · rintro ⟨d, hd⟩
    obtain ⟨l, hb, hl, hc⟩ := layout_of_decodeFrame_data hd
    exact (fourConditions_layout _ _ _ _ _ _ b hb).2 ⟨rfl, hl, hc⟩
  · intro h
    have ⟨_, hmin, _⟩ := h
    obtain ⟨x, l, mt, cmd, ps, c, hb⟩ := layout_of_length hmin
    obtain ⟨rfl, hl, hc⟩ := (fourConditions_layout _ _ _ _ _ _ b hb).1 h
    exact ⟨_, by rw [hb, decodeFrame_layout l mt cmd c ps hl, if_neg (not_not_intro hc)]⟩

end Sys2Proof.Machine
end

section
/-! Proofs of the reader statements O35 and O36: the bytes that enter `RXQ` (R92) and the frame that leaves it (R94). -/

namespace Sys2Proof.Machine

/-- R92: an enabled RX_CHUNK whose chunk fits is the append and nothing else. -/
theorem exec_rxChunk_of_ready {s : State} {chunk : List Byte} (hready : s.rxReady = true)
    (hfits : s.chunkFits chunk = true) : exec (.rxChunk chunk) s = .next (s.appendChunk chunk) := by
  have harm : exec (.rxChunk chunk) s = execRxChunk chunk s := rfl
  rw [harm, execRxChunk, hready, hfits, Bool.and_self, whenEnabled_true]

/-- R94: an enabled RX_EXTRACT takes the first frame out of the queue before it dispatches it. -/
theorem exec_rxExtract_of_found {s : State} {n : Nat} (hrun : s.engState ≠ .stopped)
    (hfound : boundary s.rxq = .found n) :
    exec .rxExtract s = .next (dispatch (decodeFrame (s.rxq.take n)) (s.dropFrame n)) := by
  have harm : exec .rxExtract s = execRxExtract s := rfl
  have havail : s.frameAvail = true := s.frameAvail_iff.2 ⟨hrun, n, hfound⟩
  rw [harm, execRxExtract, havail, whenEnabled_true, extractFrame_found hfound]

/-- Settles O35: the hypotheses are `rx_ready` (R19) and that the chunk fits (R93), which enable the append. -/
theorem chunkIsAppendedToTheQueue : Obligations.ChunkIsAppendedToTheQueue := by
  unfold Obligations.ChunkIsAppendedToTheQueue
  constructor
  · intro chunk s hrun hneed hlen hcap
    exact exec_rxChunk_of_ready (s.rxReady_iff.2 ⟨hrun, hneed⟩) ((s.chunkFits_iff chunk).2 ⟨hlen, hcap⟩)
  · rfl

/-- Settles O36: the frame is dropped first, and DISPATCH keeps the queue whatever it does (`dispatch_rxq`). -/
theorem extractRemovesAndDispatches : Obligations.ExtractRemovesAndDispatches := by
  unfold Obligations.ExtractRemovesAndDispatches
  intro s n hrun hfound
  exact ⟨exec_rxExtract_of_found hrun hfound, dispatch_rxq _ (s.dropFrame n)⟩

end Sys2Proof.Machine
end

section
/-! Proofs of the engine statements O16, O17, O19, O31 and O32: how a pending write ends, by `Resolve` (R113) while the
engine runs and by `Stop` (R150) at RX_CLOSE and RX_ERROR, and the rules of DISPATCH for ACK and unknown headers (R116,
R119). -/

namespace Sys2Proof.Machine

/-! ### The effect of `Resolve` (R113) -/

/-- `Resolve` as one state, every field it does not name unchanged. -/
theorem resolve_eq (o : WriteOutcome) {s : State} {p : PendingWrite} (hp : s.pending = some p) :
    resolve o s = { s with
      out := s.out ++ [.cpl p.handle o], pending := none, permit := .free, engState := .idle } :=
  resolve_some hp

/-- `Resolve` neither reads nor writes the queue, so a frame may leave it before or after. -/
theorem resolve_with_rxq (o : WriteOutcome) {s : State} {p : PendingWrite} (hp : s.pending = some p) (q : List Byte) :
    resolve o { s with rxq := q } = { resolve o s with rxq := q } := by
  rw [resolve_eq o hp, resolve_eq o (s := { s with rxq := q }) hp]

/-! ### `Resolve` is the single way a pending write ends while the engine runs (R113) -/

/-- R16: the permit is held while a write is pending. -/
theorem permit_held_of_pending {s : State} {p : PendingWrite} (hinv : UnitInv s) (hp : s.pending = some p) :
    s.permit = .held := by
  obtain ⟨-, hpending, hpermit, -⟩ := hinv
  exact hpermit.2 (hpending.1 (by rw [hp]; rfl))

/-- DISPATCH starts from the state of the event, but for the frame an RX_EXTRACT has removed (R94, R115). -/
theorem Dispatches.start {s s0 : State} {i : Instr} {f : List Byte} (h : Dispatches s i f s0) :
    s0 = { s with rxq := s0.rxq } ∧ (i ≠ .rxExtract → s0 = s) := by
  cases h with
  | data | ack | nak | can => exact ⟨rfl, fun _ => rfl⟩
  | extract => exact ⟨rfl, fun hi => absurd rfl hi⟩

/-- Of all that DISPATCH can do, only `Resolve` ends a pending write without stopping the engine. -/
theorem DispatchEffect.eq_resolve {r : Except FrameError Frame} {s t : State} {p : PendingWrite}
    (h : DispatchEffect r s t) (hp : s.pending = some p) (hended : t.pending ≠ some p)
    (hrun : t.engState ≠ .stopped) : ∃ o, t = resolve o s := by
  cases h with
  | resolved _ _ o _ _ hp' => exact ⟨o, (resolve_eq o hp').symm⟩
  | logged => exact absurd hp hended
  | published | rejected => exact absurd (s.afterDraw_pending.trans hp) hended
  | failed => exact absurd rfl hrun

/-- Of all that an event but RESET can do, only `Resolve` ends a pending write without stopping the engine, from the
state of the event or from that state without the extracted frame. -/
theorem Effect.eq_resolve {i : Instr} {s t : State} {p : PendingWrite} (h : Effect s i t) (hp : s.pending = some p)
    (hheld : s.permit = .held) (hi : i ≠ .reset) (hended : t.pending ≠ some p) (hrun : t.engState ≠ .stopped) :
    ∃ o s0, s0 = { s with rxq := s0.rxq } ∧ (i ≠ .rxExtract → s0 = s) ∧ t = resolve o s0 := by
  cases h with
  | reset => exact absurd rfl hi
  | nothing | port | chunk | unknown => exact absurd hp hended
  | stopped | writeFailed => exact absurd rfl hrun
  | oversize _ _ _ _ _ hfree | refused _ _ _ _ _ _ hfree | written _ _ _ _ _ _ hfree =>
    rw [hheld] at hfree; cases hfree
  | abandoned _ _ o hp' => exact ⟨o, s, rfl, fun _ => rfl, (resolve_eq o hp').symm⟩
  | frame _ _ s0 _ _ hd ht =>
    obtain ⟨hstart, hsame⟩ := hd.start
    have hp0 : s0.pending = some p := by rw [hstart]; exact hp
    obtain ⟨o, rfl⟩ := ht.eq_resolve hp0 hended hrun
    exact ⟨o, s0, hstart, hsame, rfl⟩

/-- Settles O16: the effect is `resolve_eq`; the single way is the inversion `exec_effect`, where a pending write rules
out each WRITE (the permit is held) and `Effect.eq_resolve` leaves `Resolve` alone. -/
theorem resolveEndsThePendingWrite : Obligations.ResolveEndsThePendingWrite := by
  unfold Obligations.ResolveEndsThePendingWrite
  refine ⟨fun o s p hp => resolve_eq o hp, ?singleWay⟩
  case singleWay =>
    intro i s t p hinv hp hi hexec hended hrun
    obtain ⟨o, s0, hstart, hsame, rfl⟩ :=
      (exec_effect hexec).eq_resolve hp (permit_held_of_pending hinv hp) hi hended hrun
    refine ⟨o, ?_, fun hne => by rw [hsame hne]⟩
    calc resolve o s0 = resolve o { s with rxq := s0.rxq } := by rw [← hstart]
      _ = { resolve o s with rxq := s0.rxq } := resolve_with_rxq o hp s0.rxq
      _ = { resolve o s with rxq := (resolve o s0).rxq } := by rw [resolve_rxq]

/-! ### ACK and unknown headers (R116, R119) -/

/-- R115: while the engine is not stopped, the ACK row is its rule of DISPATCH. -/
theorem exec_ack_of_running {s : State} (hrun : s.engState ≠ .stopped) : exec .ack s = .next (dispatchAck s) := by
  have harm : exec .ack s = execAck s := rfl
  rw [harm, execAck, s.running_of_ne hrun, whenEnabled_true]

theorem dispatchAck_some {s : State} {p : PendingWrite} (hp : s.pending = some p) :
    dispatchAck s = resolve .delivered s := by
  rw [dispatchAck, hp]

theorem dispatchAck_none {s : State} (hp : s.pending = none) : dispatchAck s = s.emit (.log .unexpectedAck) := by
  rw [dispatchAck, hp]

/-- Settles O17: the two cases of DISPATCH of ACK. -/
theorem ackDeliversThePendingWrite : Obligations.AckDeliversThePendingWrite := by
  unfold Obligations.AckDeliversThePendingWrite
  intro s hrun
  rw [exec_ack_of_running hrun]
  constructor
  · intro p hp
    rw [dispatchAck_some hp, resolve_eq .delivered hp]
  · intro hp
    rw [dispatchAck_none hp, State.emit]

/-- R115: while the engine is not stopped, the UNKNOWN row is its rule of DISPATCH. -/
theorem exec_unknown_of_running (x : Byte) {s : State} (hrun : s.engState ≠ .stopped) :
    exec (.unknown x) s = .next (dispatchUnknown x s) := by
  have harm : exec (.unknown x) s = execUnknown x s := rfl
  rw [harm, execUnknown, s.running_of_ne hrun, whenEnabled_true]

/-- Settles O19: the one record that DISPATCH of an unknown header emits. The meaning of the UNKNOWN row logs whatever byte
it carries, so the four conditions on `x`, which say when the decoder gives that row (R55), are not needed here. -/
theorem unknownControlIsOnlyLogged : Obligations.UnknownControlIsOnlyLogged := by
  unfold Obligations.UnknownControlIsOnlyLogged
  intro x s _ _ _ _ hrun
  rw [exec_unknown_of_running x hrun, dispatchUnknown, State.emit]

/-! ### The reader's two ways to stop the engine (R126, R127) -/

/-- R126: an enabled RX_CLOSE is the stop as TransportClosed. -/
theorem exec_rxClose_of_ready {s : State} (hready : s.rxReady = true) :
    exec .rxClose s = .next (stop .transportClosed s) := by
  have harm : exec .rxClose s = execRxClose s := rfl
  rw [harm, execRxClose, hready, whenEnabled_true]

/-- R127: an enabled RX_ERROR is the stop as TransportIoError. -/
theorem exec_rxError_of_ready {s : State} (hready : s.rxReady = true) :
    exec .rxError s = .next (stop .transportIoError s) := by
  have harm : exec .rxError s = execRxError s := rfl
  rw [harm, execRxError, hready, whenEnabled_true]

/-- Settles O31: the hypotheses are `rx_ready` (R19), and `Stop` keeps the queue (`stop_eq`). -/
theorem rxCloseStopsAsClosed : Obligations.RxCloseStopsAsClosed := by
  unfold Obligations.RxCloseStopsAsClosed
  intro s hrun hneed
  rw [exec_rxClose_of_ready (s.rxReady_iff.2 ⟨hrun, hneed⟩), stop_eq, stopOutcome]

/-- Settles O32: as for RX_CLOSE, with the other cause. -/
theorem rxErrorStopsAsIoError : Obligations.RxErrorStopsAsIoError := by
  unfold Obligations.RxErrorStopsAsIoError
  intro s hrun hneed
  rw [exec_rxError_of_ready (s.rxReady_iff.2 ⟨hrun, hneed⟩), stop_eq, stopOutcome]

end Sys2Proof.Machine
end

section
/-! Proofs of the encoding statements O1, O2, O3 and O7: the decoder and the encoder, on the wire (R52, R55, R57) and on
the event port (R58). -/

namespace Sys2Proof.Machine

/-! ### One frame on the wire -/

/-- A string that is exactly one frame decodes to that frame's instruction. -/
theorem decodeEncoded_wire {bytes : List Byte} {i : Instr} (h : decodeWire bytes = .ok (i, [])) :
    decodeEncoded (.wire bytes) = .ok i := by
  rw [decodeEncoded, h]

/-- The named headers are the four of R55. -/
theorem isNamedHeader_eq_false_iff (x : Byte) :
    isNamedHeader x = false ↔ x ≠ 0x01#8 ∧ x ≠ 0x06#8 ∧ x ≠ 0x15#8 ∧ x ≠ 0x18#8 := by
  simp [isNamedHeader, Config.SOF, Config.ACK, Config.NAK, Config.CAN, and_assoc]

/-- The control rows of R55: three named bytes, and UNKNOWN for any other. -/
theorem controlInstr_cases (x : Byte) :
    x = 0x06#8 ∧ controlInstr x = .ack ∨ x = 0x15#8 ∧ controlInstr x = .nak ∨ x = 0x18#8 ∧ controlInstr x = .can ∨
    (x ≠ 0x06#8 ∧ x ≠ 0x15#8 ∧ x ≠ 0x18#8) ∧ controlInstr x = .unknown x := by
  by_cases hack : x = 0x06#8
  · subst hack; exact .inl ⟨rfl, rfl⟩
  by_cases hnak : x = 0x15#8
  · subst hnak; exact .inr (.inl ⟨rfl, rfl⟩)
  by_cases hcan : x = 0x18#8
  · subst hcan; exact .inr (.inr (.inl ⟨rfl, rfl⟩))
  · exact .inr (.inr (.inr ⟨⟨hack, hnak, hcan⟩, controlInstr_unknown hack hnak hcan⟩))

theorem controlInstr_wf {x : Byte} (hx : x ≠ 0x01#8) : (controlInstr x).wf = true := by
  rcases controlInstr_cases x with ⟨-, h⟩ | ⟨-, h⟩ | ⟨-, h⟩ | ⟨hne, h⟩ <;> rw [h]
  case inr.inr.inr => rw [Instr.wf, (isNamedHeader_eq_false_iff x).2 ⟨hx, hne⟩]; rfl
  all_goals rfl

theorem encode_controlInstr (x : Byte) : encode (controlInstr x) = .wire [x] := by
  rcases controlInstr_cases x with ⟨rfl, h⟩ | ⟨rfl, h⟩ | ⟨rfl, h⟩ | ⟨-, h⟩ <;> rw [h] <;> rfl

/-- The two ways the wire decoder reads a frame (R55, R57). -/
theorem decodeWire_ok {q rest : List Byte} {i : Instr} (h : decodeWire q = .ok (i, rest)) :
    (∃ x, q = x :: rest ∧ x ≠ 0x01#8 ∧ i = controlInstr x) ∨
    (∃ l body, q = 0x01#8 :: l :: (body ++ rest) ∧ body.length = l.toNat ∧ i = .data l body) := by
  match q with
  | [] => simp [decodeWire] at h
  | x :: t =>
    by_cases hx : x = 0x01#8
    · subst hx
      match t with
      | [] => simp [decodeWire, Config.SOF] at h
      | l :: t =>
        by_cases hl : t.length < l.toNat
        · simp [decodeWire, Config.SOF, hl] at h
        · have hlen : (t.take l.toNat).length = l.toNat := List.length_take_of_le (by omega)
          rw [← List.take_append_drop l.toNat t, decodeWire_data _ hlen] at h
          obtain ⟨rfl, rfl⟩ : _ = i ∧ _ = rest := by simpa using h
          exact .inr ⟨l, _, by rw [List.take_append_drop], hlen, rfl⟩
    · rw [decodeWire_control t hx] at h
      obtain ⟨rfl, rfl⟩ : _ = i ∧ _ = rest := by simpa using h
      exact .inl ⟨x, rfl, hx, rfl⟩

/-- Settles O1: an event's ordinal picks its own row; a data frame is as long as its Length byte says, and an UNKNOWN
header is none of the named ones. -/
theorem decodeInvertsEncode : Obligations.DecodeInvertsEncode := by
  unfold Obligations.DecodeInvertsEncode
  intro i hwf
  cases i with
  | data l body =>
    have hlen : body.length = l.toNat := by simpa [Instr.wf] using hwf
    exact decodeEncoded_wire (by simpa [Config.SOF] using decodeWire_data [] hlen)
  | unknown x =>
    obtain ⟨hsof, hack, hnak, hcan⟩ := (isNamedHeader_eq_false_iff x).1 (by simpa [Instr.wf] using hwf)
    exact decodeEncoded_wire (by rw [decodeWire_control [] hsof, controlInstr_unknown hack hnak hcan])
  | ack | nak | can | reset | write | cancel | timeout | shutdown | rxChunk | rxClose | rxError | rxExtract | checksum
  | encode | updateChecksum | decode | boundary => rfl

/-- Settles O2: the decoder and BOUNDARY read the same header and the same Length byte. -/
theorem wireDecodingReadsTheBoundary : Obligations.WireDecodingReadsTheBoundary := by
  unfold Obligations.WireDecodingReadsTheBoundary
  intro q rest i h
  rcases decodeWire_ok h with ⟨x, rfl, hx, rfl⟩ | ⟨l, body, rfl, hlen, rfl⟩
  · exact ⟨controlInstr_wf hx, 1, boundary_control rest hx, encode_controlInstr x, rfl⟩
  · refine ⟨by simp [Instr.wf, hlen], l.toNat + 2, ?_, ?_, ?_⟩
    · rw [boundary_sof, if_neg (by simp [hlen])]
    · simp [encode, Config.SOF, ← hlen]
    · simp [← hlen]

/-! ### Written-out words, and the ordinals of R58 -/

/-- Settles O3: each word evaluates to its row. -/
theorem specWordsDecode : Obligations.SpecWordsDecode := by
  unfold Obligations.SpecWordsDecode
  decide

/-- Every assigned ordinal is an event (R58). -/
theorem exists_decodeOffer {o : Offer} (hE : o.ordinal ≠ 0xE#4) (hF : o.ordinal ≠ 0xF#4) :
    ∃ i, decodeOffer o = .ok i := by
  have hlt : o.ordinal.toNat < 14 := by bv_omega
  unfold decodeOffer
  split
  case h_15 => grind
  all_goals exact ⟨_, rfl⟩

/-- The two unassigned ordinals are refused (R58, D4). -/
theorem decodeOffer_unassigned {o : Offer} (h : o.ordinal = 0xE#4 ∨ o.ordinal = 0xF#4) :
    decodeOffer o = .error (.unassignedOrdinal o.ordinal) := by
  rcases h with h | h <;> simp [decodeOffer, h]

/-- An offer that decodes to no event makes the step a refusal that names why. -/
theorem step_of_undecodable {s : State} {o : Offer} {rest : List Offer} {e : DecodeError} (ho : s.offers = o :: rest)
    (he : decodeOffer o = .error e) : step s = .refused (.undecodable e) := by
  rw [step, fetch, ho]; simp only [he]

/-- Settles O7: the decoder's last row holds 0xE and 0xF only. -/
theorem unassignedOrdinalsAreRefused : Obligations.UnassignedOrdinalsAreRefused :=
  ⟨fun _ _ _ ho h => step_of_undecodable ho (decodeOffer_unassigned h), fun _ hE hF => exists_decodeOffer hE hF⟩

end Sys2Proof.Machine
end

section
/-! Proofs of the step statements O6, O8, O9 and O10: what is fetched and run (R9, R18, R22), the wire instruction an
RX_EXTRACT runs (R94, R115), and the refusals (R24, R58, R72, R74). -/

namespace Sys2Proof.Machine

/-! ### Fetching -/

/-- R22: the first offer is fetched, and used up. -/
theorem fetch_of_offer {s : State} {o : Offer} {rest : List Offer} {i : Instr} (ho : s.offers = o :: rest)
    (hi : decodeOffer o = .ok i) : fetch s = .event i { s with offers := rest } := by
  rw [fetch, ho]
  simp only [hi, State.popOffer, ho, List.tail_cons]

/-- With nothing offered, the unit's own RX_EXTRACT or none (R18; log 13). -/
theorem fetch_of_no_offer {s : State} (ho : s.offers = []) :
    fetch s = if s.ownStep then .event .rxExtract s else .idle := by
  rw [fetch, ho]

/-- What is fetched is run in the state of the step, but for the offers. -/
theorem fetch_event_state {s s0 : State} {i : Instr} (h : fetch s = .event i s0) :
    s0 = { s with offers := s0.offers } := by
  cases ho : s.offers with
  | nil =>
    rw [fetch_of_no_offer ho] at h
    split at h
    · injection h with _ h; rw [← h]
    · simp at h
  | cons o rest =>
    cases hi : decodeOffer o with
    | ok j => rw [fetch_of_offer ho hi] at h; injection h with _ h; rw [← h]
    | error e => rw [fetch, ho] at h; simp [hi] at h

/-! ### Stepping -/

/-- R9: a step runs what is fetched, if the unit takes it at all (R24). -/
theorem step_of_event {s s0 : State} {i : Instr} (h : fetch s = .event i s0) :
    step s = if s.admits i then exec i s0 else .refused .beforeFirstReset := by
  rw [step, h]

/-- R159: with nothing to process a step changes nothing. -/
theorem step_of_idle {s : State} (h : fetch s = .idle) : step s = .next s := by
  rw [step, h]

theorem State.admits_iff (s : State) (i : Instr) : s.admits i = true ↔ s.resetSeen = true ∨ i = .reset := by
  simp [State.admits]

/-- A step that answers idles, or runs an event in its own state without some of the offers (R9, R22). -/
theorem step_next {s t : State} (h : step s = .next t) :
    t = s ∨ ∃ i s0, s0 = { s with offers := s0.offers } ∧ exec i s0 = .next t := by
  cases hf : fetch s with
  | event i s0 =>
    rw [step_of_event hf] at h
    split at h
    · exact .inr ⟨i, s0, fetch_event_state hf, h⟩
    · simp at h
  | idle => rw [step_of_idle hf] at h; injection h with h; exact .inl h.symm
  | undecodable e => rw [step, hf] at h; simp at h

/-- Settles O6: the first offer is fetched, and `admits` is the condition of R24. -/
theorem stepRunsTheOfferedEvent : Obligations.StepRunsTheOfferedEvent := by
  unfold Obligations.StepRunsTheOfferedEvent
  intro s o rest i ho hi
  rw [step_of_event (fetch_of_offer ho hi)]
  simp only [State.admits_iff]

/-- Settles O8: `ownStep` asks for a RESET and for a frame. -/
theorem unofferedStepExtractsOrIdles : Obligations.UnofferedStepExtractsOrIdles := by
  unfold Obligations.UnofferedStepExtractsOrIdles
  intro s ho
  have hfetch := fetch_of_no_offer ho
  refine ⟨fun hseen havail => ?extracts, fun hseen havail => ?noFrame, fun hseen => ?beforeReset⟩
  case extracts =>
    rw [State.ownStep, hseen, havail] at hfetch
    rw [step_of_event hfetch, if_pos ((s.admits_iff _).2 (.inl hseen))]
  case noFrame => rw [State.ownStep, havail, Bool.and_false] at hfetch; exact step_of_idle hfetch
  case beforeReset => rw [State.ownStep, hseen, Bool.false_and] at hfetch; exact step_of_idle hfetch

/-! ### RX_EXTRACT and the wire rows -/

/-- R115: while the engine is not stopped, the DATA row is DISPATCH of what DECODE returns. -/
theorem exec_data_of_running (l : Byte) (body : List Byte) {s : State} (hrun : s.engState ≠ .stopped) :
    exec (.data l body) s = .next (dispatch (decodeFrame (0x01#8 :: l :: body)) s) := by
  have harm : exec (.data l body) s = execData l body s := rfl
  rw [harm, execData, s.running_of_ne hrun, whenEnabled_true, Config.SOF]

/-- R117: while the engine is not stopped, the NAK row is its rule of DISPATCH. -/
theorem exec_nak_of_running {s : State} (hrun : s.engState ≠ .stopped) : exec .nak s = .next (dispatchNak s) := by
  have harm : exec .nak s = execNak s := rfl
  rw [harm, execNak, s.running_of_ne hrun, whenEnabled_true]

/-- R118: while the engine is not stopped, the CAN row is its rule of DISPATCH. -/
theorem exec_can_of_running {s : State} (hrun : s.engState ≠ .stopped) : exec .can s = .next (dispatchCan s) := by
  have harm : exec .can s = execCan s := rfl
  rw [harm, execCan, s.running_of_ne hrun, whenEnabled_true]

/-- KIND of a byte that is none of the three named ones (R76). -/
theorem kind_unknown {x : Byte} (hack : x ≠ 0x06#8) (hnak : x ≠ 0x15#8) (hcan : x ≠ 0x18#8) : kind x = .unknown x := by
  simp [kind, Config.ACK, Config.NAK, Config.CAN, hack, hnak, hcan]

/-- The decoder's table of control bytes and the codec's KIND (R55, R76) name the same rule of DISPATCH. -/
theorem exec_controlInstr_of_running (x : Byte) {s : State} (hrun : s.engState ≠ .stopped) :
    exec (controlInstr x) s = .next (dispatch (.ok (.control (kind x))) s) := by
  rcases controlInstr_cases x with ⟨rfl, h⟩ | ⟨rfl, h⟩ | ⟨rfl, h⟩ | ⟨⟨hack, hnak, hcan⟩, h⟩ <;> rw [h]
  · exact exec_ack_of_running hrun
  · exact exec_nak_of_running hrun
  · exact exec_can_of_running hrun
  · rw [kind_unknown hack hnak hcan]
    exact exec_unknown_of_running x hrun

/-- Settles O9: what BOUNDARY cuts is what the wire decoder reads, and both go to the same rule of DISPATCH. -/
theorem extractRunsTheDecodedFrame : Obligations.ExtractRunsTheDecodedFrame := by
  unfold Obligations.ExtractRunsTheDecodedFrame
  intro s i rest hrun hdecode
  obtain ⟨-, n, hfound, -, hrest⟩ := wireDecodingReadsTheBoundary s.rxq rest i hdecode
  have hstart : { s with rxq := rest } = s.dropFrame n := by rw [State.dropFrame, hrest]
  rw [exec_rxExtract_of_found hrun hfound, hstart]
  rcases decodeWire_ok hdecode with ⟨x, hq, hx, rfl⟩ | ⟨l, body, hq, hlen, rfl⟩
  · obtain rfl : 1 = n := by simpa [hq, boundary_control rest hx] using hfound
    rw [exec_controlInstr_of_running x (s := s.dropFrame 1) hrun, hq, List.take_succ_cons, List.take_zero,
      decodeFrame_single]
  · obtain rfl : l.toNat + 2 = n := by simpa [hq, boundary_sof, hlen] using hfound
    have htake : s.rxq.take (l.toNat + 2) = 0x01#8 :: l :: body := by simp [hq, ← hlen]
    rw [exec_data_of_running l body (s := s.dropFrame (l.toNat + 2)) hrun, htake]

/-! ### Refusals -/

/-- R141: an event answers a next state, but for the two codec operations that ask for 2 bytes (R72, R74). -/
theorem exec_next_or_tooShort (i : Instr) (s : State) :
    (∃ t, exec i s = .next t) ∨
    (∃ b, i = .checksum b ∧ b.length < 2 ∧ exec i s = .refused .checksumTooShort) ∨
    (∃ b, i = .updateChecksum b ∧ b.length < 2 ∧ exec i s = .refused .updateChecksumTooShort) := by
  cases i with
  | checksum b =>
    by_cases hb : b.length < 2
    · exact .inr (.inl ⟨b, rfl, hb, if_pos hb⟩)
    · exact .inl ⟨_, if_neg hb⟩
  | updateChecksum b =>
    by_cases hb : b.length < 2
    · exact .inr (.inr ⟨b, rfl, hb, if_pos hb⟩)
    · exact .inl ⟨_, if_neg hb⟩
  | data | ack | nak | can | unknown | reset | write | cancel | timeout | shutdown | rxChunk | rxClose | rxError
  | rxExtract | encode | decode | boundary => exact .inl ⟨_, rfl⟩

/-- An offer decodes to an event of its own ordinal, whose operands are read from the slots R58 lists. -/
theorem decodeOffer_checksum {o : Offer} {b : List Byte} (h : decodeOffer o = .ok (.checksum b)) :
    o.ordinal = 0x9#4 ∧ o.operands.bytes = b := by
  unfold decodeOffer at h
  split at h <;> simp_all [BitVec.toNat_eq]

theorem decodeOffer_updateChecksum {o : Offer} {b : List Byte} (h : decodeOffer o = .ok (.updateChecksum b)) :
    o.ordinal = 0xB#4 ∧ o.operands.bytes = b := by
  unfold decodeOffer at h
  split at h <;> simp_all [BitVec.toNat_eq]

theorem decodeOffer_zero {o : Offer} (h : o.ordinal = 0x0#4) : decodeOffer o = .ok .reset := by
  simp [decodeOffer, h]

theorem safeStep_of_no_offer {s : State} (ho : s.offers = []) : SafeStep s := by
  obtain ⟨hextract, hidle, hunreset⟩ := unofferedStepExtractsOrIdles s ho
  cases hseen : s.resetSeen with
  | false => exact ⟨s, hunreset hseen⟩
  | true =>
    cases havail : s.frameAvail with
    | false => exact ⟨s, hidle hseen havail⟩
    | true => exact ⟨_, hextract hseen havail⟩

/-- Settles O10: with an offer, its ordinal is unassigned, or R24 refuses the event, or the event answers or is too
short. -/
theorem refusalsAreTheSpecsOwn : Obligations.RefusalsAreTheSpecsOwn := by
  unfold Obligations.RefusalsAreTheSpecsOwn
  intro s
  cases ho : s.offers with
  | nil => exact .inl (safeStep_of_no_offer ho)
  | cons o rest =>
    by_cases hord : o.ordinal = 0xE#4 ∨ o.ordinal = 0xF#4
    · exact .inr ⟨o, rest, rfl, .inl ⟨hord, step_of_undecodable ho (decodeOffer_unassigned hord)⟩⟩
    obtain ⟨hE, hF⟩ := not_or.1 hord
    obtain ⟨i, hi⟩ := exists_decodeOffer hE hF
    have hstep := stepRunsTheOfferedEvent s o rest i ho hi
    by_cases htaken : s.resetSeen = true ∨ i = .reset
    · rw [if_pos htaken] at hstep
      rcases exec_next_or_tooShort i { s with offers := rest } with ⟨t, ht⟩ | ⟨b, rfl, hb, hr⟩ | ⟨b, rfl, hb, hr⟩
      · exact .inl ⟨t, hstep.trans ht⟩
      · obtain ⟨hord, rfl⟩ := decodeOffer_checksum hi
        exact .inr ⟨o, rest, rfl, .inr (.inr ⟨by simpa using htaken, hb, .inl ⟨hord, hstep.trans hr⟩⟩)⟩
      · obtain ⟨hord, rfl⟩ := decodeOffer_updateChecksum hi
        exact .inr ⟨o, rest, rfl, .inr (.inr ⟨by simpa using htaken, hb, .inr ⟨hord, hstep.trans hr⟩⟩)⟩
    · rw [if_neg htaken] at hstep
      obtain ⟨hseen, hne⟩ := not_or.1 htaken
      have hord0 : o.ordinal ≠ 0x0#4 := fun h0 => hne (by simpa [decodeOffer_zero h0] using hi.symm)
      exact .inr ⟨o, rest, rfl, .inr (.inl ⟨Bool.eq_false_iff.2 hseen, hord0, hstep⟩)⟩

end Sys2Proof.Machine
end

section
/-! Proofs of the invariant statements O11 to O15: R16 and R14's range of the pending frame, at RESET, along one event,
and so in every state that can follow a RESET. -/

namespace Sys2Proof.Machine

/-! ### The three shapes of a state that meets the invariants -/

/-- With nothing pending, the permit free and no stop cause, an Idle engine meets R16. -/
theorem unitInv_idle {s : State} (hreset : s.resetSeen = true) (he : s.engState = .idle) (hpe : s.permit = .free)
    (hpd : s.pending = none) (hc : s.stopCause = none) (hq : s.rxq.length ≤ Config.RXBUF_CAP) : UnitInv s := by
  simp [UnitInv, hreset, he, hpe, hpd, hc, hq, pendingFrameOk]

/-- With nothing pending, the permit free and a stop cause, a Stopped engine meets R16. -/
theorem unitInv_stopped {s : State} {c : StopCause} (hreset : s.resetSeen = true) (he : s.engState = .stopped)
    (hpe : s.permit = .free) (hpd : s.pending = none) (hc : s.stopCause = some c)
    (hq : s.rxq.length ≤ Config.RXBUF_CAP) : UnitInv s := by
  simp [UnitInv, hreset, he, hpe, hpd, hc, hq, pendingFrameOk]

/-- With a write of an R14 frame pending, the permit held and no stop cause, an AwaitingAck engine meets R16. -/
theorem unitInv_awaitingAck {s : State} {p : PendingWrite} (hreset : s.resetSeen = true)
    (he : s.engState = .awaitingAck) (hpe : s.permit = .held) (hpd : s.pending = some p) (hc : s.stopCause = none)
    (hq : s.rxq.length ≤ Config.RXBUF_CAP) (hf : pendingFrameOk (some p) = true) : UnitInv s := by
  simp [UnitInv, hreset, he, hpe, hpd, hc, hq, hf]

/-- The invariants read five elements and the RESET bit, and of the queue only that it is within its bound. -/
theorem UnitInv.congr {s t : State} (h : UnitInv s) (hreset : t.resetSeen = s.resetSeen)
    (he : t.engState = s.engState) (hpe : t.permit = s.permit) (hpd : t.pending = s.pending)
    (hc : t.stopCause = s.stopCause) (hq : t.rxq.length ≤ Config.RXBUF_CAP) : UnitInv t := by
  obtain ⟨h1, h2, h3, h4, -, h6⟩ := h
  simp only [UnitInv, hreset, he, hpe, hpd, hc]
  exact ⟨h1, h2, h3, h4, hq, h6⟩

/-! ### What the invariants say of a state -/

theorem UnitInv.resetSeen {s : State} (h : UnitInv s) : s.resetSeen = true := h.1

theorem UnitInv.rxq_le {s : State} (h : UnitInv s) : s.rxq.length ≤ Config.RXBUF_CAP := by
  obtain ⟨-, -, -, -, hq, -⟩ := h
  exact hq

/-- A pending write is there in AwaitingAck only (R16). -/
theorem UnitInv.engState_of_pending {s : State} {p : PendingWrite} (h : UnitInv s) (hp : s.pending = some p) :
    s.engState = .awaitingAck := by
  obtain ⟨-, hpending, -⟩ := h
  exact hpending.1 (by rw [hp]; rfl)

/-- Outside AwaitingAck nothing is pending (R16). -/
theorem UnitInv.pending_eq_none {s : State} (h : UnitInv s) (he : s.engState ≠ .awaitingAck) : s.pending = none := by
  cases hp : s.pending with
  | none => rfl
  | some p => exact absurd (h.engState_of_pending hp) he

/-- Outside AwaitingAck the permit is free (R16). -/
theorem UnitInv.permit_eq_free {s : State} (h : UnitInv s) (he : s.engState ≠ .awaitingAck) : s.permit = .free := by
  obtain ⟨-, -, hpermit, -⟩ := h
  cases hp : s.permit with
  | free => rfl
  | held => exact absurd (hpermit.1 hp) he

/-- In AwaitingAck the permit is held (R16). -/
theorem UnitInv.permit_eq_held {s : State} (h : UnitInv s) (he : s.engState = .awaitingAck) : s.permit = .held := by
  obtain ⟨-, -, hpermit, -⟩ := h
  exact hpermit.2 he

/-- A running engine has no stop cause (R16). -/
theorem UnitInv.stopCause_eq_none {s : State} (h : UnitInv s) (he : s.engState ≠ .stopped) : s.stopCause = none := by
  obtain ⟨-, -, -, hcause, -⟩ := h
  cases hc : s.stopCause with
  | none => rfl
  | some c => exact absurd (hcause.1 (by rw [hc]; rfl)) he

/-- A stopped engine has a stop cause (R16). -/
theorem UnitInv.stopCause_ne_none {s : State} (h : UnitInv s) (he : s.engState = .stopped) : s.stopCause ≠ none := by
  obtain ⟨-, -, -, hcause, -⟩ := h
  exact Option.isSome_iff_ne_none.1 (hcause.2 he)

/-! ### Every event keeps them -/

/-- FRAME gives a string in R14's range: a valid data frame of 5 to 257 bytes. -/
theorem pendingFrameOk_frameBytes {mt cmd : Byte} {ps f : List Byte} (hl : ps.length ≤ 252)
    (hf : frameBytes mt cmd ps = .ok f) (h : Handle) (d : Option Deadline) :
    pendingFrameOk (some { frame := f, handle := h, deadline := d }) = true := by
  rw [frameBytes_small mt cmd hl] at hf
  injection hf with hf
  have hv : valid f = true := valid_iff.2 ⟨_, by rw [← hf, decodeFrame_frame mt cmd hl]⟩
  have hlen : f.length = ps.length + 5 := by simp [← hf]
  simp only [pendingFrameOk, hv, hlen, Config.FRAME_MIN, Config.FRAME_MAX_WIRE, Bool.true_and, Bool.and_eq_true,
    decide_eq_true_eq]
  omega

/-- DISPATCH keeps the invariants: it resolves, it stops, or it changes none of the five elements. -/
theorem DispatchEffect.keeps_unitInv {r : Except FrameError Frame} {s t : State} (h : DispatchEffect r s t)
    (hinv : UnitInv s) : UnitInv t := by
  cases h with
  | resolved k p o hr hk hp =>
    have he := hinv.engState_of_pending hp
    exact unitInv_idle hinv.resetSeen rfl rfl rfl (hinv.stopCause_eq_none (by simp [he])) hinv.rxq_le
  | logged => exact hinv
  | published | rejected =>
    exact hinv.congr s.afterDraw_resetSeen s.afterDraw_engState s.afterDraw_permit s.afterDraw_pending
      s.afterDraw_stopCause (by simpa using hinv.rxq_le)
  | failed j c =>
    exact unitInv_stopped (c := c) (by simpa using hinv.resetSeen) rfl rfl rfl rfl (by simpa using hinv.rxq_le)

/-- What is handed to DISPATCH leaves the unit within the invariants: the queue only loses bytes (R94). -/
theorem Dispatches.keeps_unitInv {s s0 : State} {i : Instr} {f : List Byte} (h : Dispatches s i f s0)
    (hinv : UnitInv s) : UnitInv s0 := by
  cases h with
  | data | ack | nak | can => exact hinv
  | extract n =>
    have hq := hinv.rxq_le
    exact hinv.congr rfl rfl rfl rfl rfl (by simp; omega)

/-- Everything an event can do keeps the invariants (R16). -/
theorem Effect.keeps_unitInv {i : Instr} {s t : State} (h : Effect s i t) (hinv : UnitInv s) : UnitInv t := by
  cases h with
  | nothing | port | oversize | refused | unknown => exact hinv
  | reset => exact unitInv_idle rfl rfl rfl rfl rfl (Nat.zero_le _)
  | chunk c _ _ hl => exact hinv.congr rfl rfl rfl rfl rfl (by simpa using hl)
  | stopped _ c => exact unitInv_stopped (c := c) hinv.resetSeen rfl rfl rfl rfl hinv.rxq_le
  | abandoned _ p _ hp =>
    have he := hinv.engState_of_pending hp
    exact unitInv_idle hinv.resetSeen rfl rfl rfl (hinv.stopCause_eq_none (by simp [he])) hinv.rxq_le
  | written mt cmd ps hd d f _ he hl hf =>
    exact unitInv_awaitingAck (by simpa using hinv.resetSeen) rfl rfl rfl
      (by simpa using hinv.stopCause_eq_none (by simp [he])) (by simpa using hinv.rxq_le)
      (pendingFrameOk_frameBytes hl hf hd d)
  | writeFailed _ _ _ _ _ _ _ c =>
    exact unitInv_stopped (c := c) (by simpa using hinv.resetSeen) rfl rfl rfl rfl (by simpa using hinv.rxq_le)
  | frame _ _ s0 _ _ hd ht => exact ht.keeps_unitInv (hd.keeps_unitInv hinv)

/-- Settles O14: a step runs one event, and the invariants do not read the offers. -/
theorem everyStepKeepsTheInvariants : Obligations.EveryStepKeepsTheInvariants := by
  unfold Obligations.EveryStepKeepsTheInvariants
  intro s t hinv hstep
  rcases step_next hstep with rfl | ⟨i, s0, hs0, hexec⟩
  · exact hinv
  · have hinv0 : UnitInv s0 := by rw [hs0]; exact hinv
    exact (exec_effect hexec).keeps_unitInv hinv0

/-- Settles O15, by induction on how the state is reached: the environment's lists are not read. -/
theorem reachableStatesMeetTheInvariants : Obligations.ReachableStatesMeetTheInvariants := by
  unfold Obligations.ReachableStatesMeetTheInvariants
  intro s h
  induction h with
  | reset => exact unitInv_idle rfl rfl rfl rfl rfl (Nat.zero_le _)
  | event i _ hexec hinv => exact (exec_effect hexec).keeps_unitInv hinv
  | environment _ _ _ hinv => exact hinv

/-! ### The state after RESET (R24, R170, R171) -/

/-- Settles O11: the five elements of `State.reset`. -/
theorem resetStateHasTheSpecValues : Obligations.ResetStateHasTheSpecValues := ⟨rfl, rfl, rfl, rfl, rfl⟩

/-- Settles O12: RESET asks nothing of the state. -/
theorem resetRestoresAllFiveElements : Obligations.ResetRestoresAllFiveElements := fun _ => rfl

/-- Settles O13: the state after RESET is Idle with nothing pending. -/
theorem resetMeetsTheInvariants : Obligations.ResetMeetsTheInvariants :=
  unitInv_idle rfl rfl rfl rfl rfl (Nat.zero_le _)

end Sys2Proof.Machine
end

section
/-! Proofs of the DISPATCH and transmit statements O18 and O20 to O22: NAK and CAN (R117, R118), data frames (R120,
R121), and what a transmit does with the transport's answer (R112). -/

namespace Sys2Proof.Machine

/-! ### NAK and CAN -/

theorem dispatchNak_some {s : State} {p : PendingWrite} (hp : s.pending = some p) : dispatchNak s = resolve .nak s := by
  rw [dispatchNak, hp]

theorem dispatchNak_none {s : State} (hp : s.pending = none) :
    dispatchNak s = s.emit (.log (.unexpectedNakCan 0x15#8)) := by
  rw [dispatchNak, hp, Config.NAK]

theorem dispatchCan_some {s : State} {p : PendingWrite} (hp : s.pending = some p) : dispatchCan s = resolve .can s := by
  rw [dispatchCan, hp]

theorem dispatchCan_none {s : State} (hp : s.pending = none) :
    dispatchCan s = s.emit (.log (.unexpectedNakCan 0x18#8)) := by
  rw [dispatchCan, hp, Config.CAN]

/-- Settles O18: the two cases of DISPATCH of NAK and of CAN. -/
theorem nakAndCanRejectThePendingWrite : Obligations.NakAndCanRejectThePendingWrite := by
  unfold Obligations.NakAndCanRejectThePendingWrite
  intro s hrun
  rw [exec_nak_of_running hrun, exec_can_of_running hrun]
  refine ⟨fun p hp => ?pending, fun hp => ?stray, rfl, rfl⟩
  case pending =>
    rw [dispatchNak_some hp, dispatchCan_some hp, resolve_eq .nak hp, resolve_eq .can hp]
    exact ⟨rfl, rfl⟩
  case stray =>
    rw [dispatchNak_none hp, dispatchCan_none hp, State.emit, State.emit]
    exact ⟨rfl, rfl⟩

/-! ### What a transmit leaves (R112) -/

/-- The state after a transmit that failed with a cause once `j` bytes were out: the engine is stopped (R112, R150). -/
def State.afterFailedTransmit (s : State) (bs : List Byte) (j : Nat) (c : StopCause) : State :=
  { s.afterDraw with
    out := s.out ++ (bs.take j).map .tx ++ completionOf s.pending (stopOutcome c)
    pending := none, permit := .free, engState := .stopped, stopCause := some c }

theorem stop_emitTx_afterDraw (bs : List Byte) (j : Nat) (c : StopCause) (s : State) :
    stop c (s.afterDraw.emitTx (bs.take j)) = s.afterFailedTransmit bs j c := by
  simp [stop_eq, State.emitTx, State.afterFailedTransmit]

theorem transmitThen_of_ioError {s : State} {j : Nat} (bs : List Byte) (k : State → State)
    (ha : s.txAnswer = .ioError j) : transmitThen bs k s = s.afterFailedTransmit bs j .transportIoError := by
  rw [transmitThen_ioError ha, stop_emitTx_afterDraw]

theorem transmitThen_of_closed {s : State} {j : Nat} (bs : List Byte) (k : State → State)
    (ha : s.txAnswer = .closed j) : transmitThen bs k s = s.afterFailedTransmit bs j .transportClosed := by
  rw [transmitThen_closed ha, stop_emitTx_afterDraw]

theorem State.txAnswer_cons {s : State} {a : TxAnswer} {rest : List TxAnswer} (h : s.answers = a :: rest) :
    s.txAnswer = a := by
  rw [State.txAnswer, h]

theorem State.txAnswer_nil {s : State} (h : s.answers = []) : s.txAnswer = Config.freeTxAnswer s.draws := by
  rw [State.txAnswer, h]

theorem State.afterDraw_cons {s : State} {a : TxAnswer} {rest : List TxAnswer} (h : s.answers = a :: rest) :
    s.afterDraw = { s with answers := rest } := by
  rw [State.afterDraw, h]

theorem State.afterDraw_nil {s : State} (h : s.answers = []) : s.afterDraw = { s with draws := s.draws + 1 } := by
  rw [State.afterDraw, h]

/-- Settles O22: the draw by the two shapes of the list, the transmit by the three answers. -/
theorem answersAreTakenInOrder : Obligations.AnswersAreTakenInOrder := by
  unfold Obligations.AnswersAreTakenInOrder
  refine ⟨fun s a rest h => ⟨State.txAnswer_cons h, State.afterDraw_cons h⟩,
    fun s h => ⟨State.txAnswer_nil h, State.afterDraw_nil h⟩,
    fun bs onOk s => ⟨fun ha => ?_, fun j ha => ?_, fun j ha => ?_⟩⟩
  · exact ⟨transmitThen_ok ha, transmitThen_ok ha⟩
  · exact ⟨transmitThen_ioError ha, transmitThen_ioError ha⟩
  · exact ⟨transmitThen_closed ha, transmitThen_closed ha⟩

/-! ### Data frames (R120, R121) -/

/-- Settles O20: ACK first, and PUB only after an Ok answer. -/
theorem validDataIsAckedThenPublished : Obligations.ValidDataIsAckedThenPublished := by
  unfold Obligations.ValidDataIsAckedThenPublished
  intro l body d s hrun hd
  rw [exec_data_of_running l body hrun, hd, dispatch, dispatchData, Config.ACK]
  refine ⟨fun ha => ?ok, fun j ha => ?ioError, fun j ha => ?closed⟩
  case ok => rw [transmitThen_ok ha]; simp [State.emit, State.emitTx]
  case ioError => rw [transmitThen_of_ioError _ _ ha]; rfl
  case closed => rw [transmitThen_of_closed _ _ ha]; rfl

/-- Settles O21: LOG first, then NAK, from the state that has the LOG record. -/
theorem invalidDataIsNakedAndDropped : Obligations.InvalidDataIsNakedAndDropped := by
  unfold Obligations.InvalidDataIsNakedAndDropped
  intro l body e s hrun he
  rw [exec_data_of_running l body hrun, he, dispatch, dispatchError, transmit, Config.NAK]
  refine ⟨fun ha => ?ok, fun j ha => ?ioError, fun j ha => ?closed⟩
  case ok =>
    rw [transmitThen_ok ((s.txAnswer_emit _).trans ha), State.afterDraw_emit]
    simp [State.emit, State.emitTx]
  case ioError =>
    rw [transmitThen_of_ioError (j := j) _ _ ((s.txAnswer_emit _).trans ha), State.afterFailedTransmit,
      State.afterDraw_emit]
    rfl
  case closed =>
    rw [transmitThen_of_closed (j := j) _ _ ((s.txAnswer_emit _).trans ha), State.afterFailedTransmit,
      State.afterDraw_emit]
    rfl

end Sys2Proof.Machine
end

section
/-! Proofs of the write path and stop statements O23 to O30: WRITE (R110, R111, R114), CANCEL and TIMEOUT (R123, R124),
and the stops (R125, R150). -/

namespace Sys2Proof.Machine

/-! ### WRITE -/

section
variable (mt cmd : Byte) (ps : List Byte) (h : Handle) (d : Option Deadline) {s : State}

/-- R110: a WRITE with the permit free is accepted, and ENG_STATE decides what it does. -/
theorem exec_write_of_free (hp : s.permit = .free) :
    exec (.write mt cmd ps h d) s = .next (writeWithPermit mt cmd ps h d s) := by
  have harm : exec (.write mt cmd ps h d) s = execWrite mt cmd ps h d s := rfl
  rw [harm, execWrite, s.wrReady_iff.2 hp, whenEnabled_true]

/-- D16: a WRITE waits outside the unit while the permit is held. -/
theorem exec_write_of_held (hp : s.permit = .held) : exec (.write mt cmd ps h d) s = .next s := by
  have harm : exec (.write mt cmd ps h d) s = execWrite mt cmd ps h d s := rfl
  rw [harm, execWrite, State.wrReady, hp, whenEnabled_false]

theorem exec_write_of_idle (hp : s.permit = .free) (he : s.engState = .idle) :
    exec (.write mt cmd ps h d) s = .next (acceptWrite mt cmd ps h d s) := by
  rw [exec_write_of_free mt cmd ps h d hp, writeWithPermit, he]

/-- R110: from Idle, a WRITE whose frame ENCODE can lay out is registered and transmitted. -/
theorem exec_write_of_frame {f : List Byte} (hp : s.permit = .free) (he : s.engState = .idle)
    (hf : frameBytes mt cmd ps = .ok f) : exec (.write mt cmd ps h d) s =
      .next (transmit f (s.registerWrite { frame := f, handle := h, deadline := d })) := by
  rw [exec_write_of_idle mt cmd ps h d hp he, acceptWrite, hf]

/-- R111: a WRITE while stopped gets the outcome of the stop. -/
theorem exec_write_of_stopped {c : StopCause} (hp : s.permit = .free) (he : s.engState = .stopped)
    (hc : s.stopCause = some c) :
    exec (.write mt cmd ps h d) s = .next { s with out := s.out ++ [.cpl h (stopOutcome c)] } := by
  have hrefuse : writeWithPermit mt cmd ps h d s = refuseWrite h s := by rw [writeWithPermit, he]
  have hemit : refuseWrite h s = s.emit (.cpl h (stopOutcome c)) := by rw [refuseWrite, hc]
  rw [exec_write_of_free mt cmd ps h d hp, hrefuse, hemit, State.emit]

end

/-- Settles O23: FRAME byte by byte, then the three answers to its transmit. -/
theorem writeTransmitsAndRegisters : Obligations.WriteTransmitsAndRegisters := by
  unfold Obligations.WriteTransmitsAndRegisters
  intro mt cmd ps h d s hp he hl
  refine ⟨_, rfl, ?_⟩
  rw [exec_write_of_frame mt cmd ps h d hp he (frameBytes_small mt cmd hl), transmit]
  refine ⟨fun ha => ?ok, fun j ha => ?ioError, fun j ha => ?closed⟩
  case ok =>
    rw [transmitThen_ok ((s.txAnswer_registerWrite _).trans ha), State.afterDraw_registerWrite]
    simp [State.registerWrite, State.emitTx]
  case ioError =>
    rw [transmitThen_of_ioError _ _ ((s.txAnswer_registerWrite _).trans ha), State.afterFailedTransmit,
      State.afterDraw_registerWrite]
    rfl
  case closed =>
    rw [transmitThen_of_closed _ _ ((s.txAnswer_registerWrite _).trans ha), State.afterFailedTransmit,
      State.afterDraw_registerWrite]
    rfl

/-- Settles O24: ENCODE fails, so nothing is registered or transmitted. -/
theorem oversizeWriteOnlyCompletes : Obligations.OversizeWriteOnlyCompletes := by
  unfold Obligations.OversizeWriteOnlyCompletes
  intro mt cmd ps h d s hp he hl
  rw [exec_write_of_idle mt cmd ps h d hp he, acceptWrite, frameBytes_large mt cmd hl, State.emit]

/-- Settles O25: one case for each cause of the stop. -/
theorem writeWhileStoppedGetsTheStopOutcome : Obligations.WriteWhileStoppedGetsTheStopOutcome :=
  fun mt cmd ps h d _ hp he =>
    ⟨exec_write_of_stopped mt cmd ps h d hp he, exec_write_of_stopped mt cmd ps h d hp he,
      exec_write_of_stopped mt cmd ps h d hp he⟩

/-- Settles O26: a held permit disables WRITE. -/
theorem writeWaitsWhileThePermitIsHeld : Obligations.WriteWaitsWhileThePermitIsHeld :=
  fun mt cmd ps h d _ hp => exec_write_of_held mt cmd ps h d hp

/-! ### CANCEL and TIMEOUT -/

theorem State.pendingHas_some {s : State} {p : PendingWrite} (hp : s.pending = some p) (h : Handle) :
    s.pendingHas h = decide (p.handle = h) := by
  rw [State.pendingHas, hp]

theorem State.pendingHas_none {s : State} (hp : s.pending = none) (h : Handle) : s.pendingHas h = false := by
  rw [State.pendingHas, hp]

theorem State.pendingHasDeadline_some {s : State} {p : PendingWrite} (hp : s.pending = some p) :
    s.pendingHasDeadline = p.deadline.isSome := by
  rw [State.pendingHasDeadline, hp]

section
variable {s : State} {h : Handle}

/-- R124: a CANCEL of the pending write resolves it. -/
theorem exec_cancel_of_pendingHas (hh : s.pendingHas h = true) :
    exec (.cancel h) s = .next (resolve .writeCanceled s) := by
  have harm : exec (.cancel h) s = execCancel h s := rfl
  rw [harm, execCancel, hh, whenEnabled_true]

/-- D25: a CANCEL of another write is a no-op. -/
theorem exec_cancel_of_not_pendingHas (hh : s.pendingHas h = false) : exec (.cancel h) s = .next s := by
  have harm : exec (.cancel h) s = execCancel h s := rfl
  rw [harm, execCancel, hh, whenEnabled_false]

/-- R123: a TIMEOUT of the pending write resolves it if it has a deadline. -/
theorem exec_timeout_of_pendingHas (hh : s.pendingHas h = true) (hd : s.pendingHasDeadline = true) :
    exec (.timeout h) s = .next (resolve .writeTimedOut s) := by
  have harm : exec (.timeout h) s = execTimeout h s := rfl
  rw [harm, execTimeout, hh, hd, Bool.and_self, whenEnabled_true]

/-- D25: a TIMEOUT of another write, or of one without a deadline, is a no-op. -/
theorem exec_timeout_of_not_enabled (hh : (s.pendingHas h && s.pendingHasDeadline) = false) :
    exec (.timeout h) s = .next s := by
  have harm : exec (.timeout h) s = execTimeout h s := rfl
  rw [harm, execTimeout, hh, whenEnabled_false]

end

/-- Settles O27: the handle of the pending write, if there is one, decides. -/
theorem cancelActsOnlyOnItsHandle : Obligations.CancelActsOnlyOnItsHandle := by
  unfold Obligations.CancelActsOnlyOnItsHandle
  intro h s
  refine ⟨fun p hp heq => ?same, fun p hp hne => ?other, fun hp => ?none⟩
  case same =>
    subst heq
    rw [exec_cancel_of_pendingHas (by simp [State.pendingHas_some hp]), resolve_eq _ hp]
  case other => exact exec_cancel_of_not_pendingHas (by simp [State.pendingHas_some hp, hne])
  case none => exact exec_cancel_of_not_pendingHas (State.pendingHas_none hp h)

/-- Settles O28: the handle and the deadline of the pending write, if there is one, decide. -/
theorem timeoutNeedsHandleAndDeadline : Obligations.TimeoutNeedsHandleAndDeadline := by
  unfold Obligations.TimeoutNeedsHandleAndDeadline
  intro h s
  refine ⟨fun p dl hp heq hd => ?both, fun p hp hd => ?noDeadline, fun p hp hne => ?other, fun hp => ?none⟩
  case both =>
    subst heq
    rw [exec_timeout_of_pendingHas (by simp [State.pendingHas_some hp])
      (by simp [State.pendingHasDeadline_some hp, hd]), resolve_eq _ hp]
  case noDeadline => exact exec_timeout_of_not_enabled (by simp [State.pendingHasDeadline_some hp, hd])
  case other => exact exec_timeout_of_not_enabled (by simp [State.pendingHas_some hp, hne])
  case none => exact exec_timeout_of_not_enabled (by simp [State.pendingHas_none hp])

/-! ### Stopping -/

/-- R125: SHUTDOWN is the stop while the engine runs. -/
theorem exec_shutdown_of_running {s : State} (hrun : s.engState ≠ .stopped) :
    exec .shutdown s = .next (stop .shutdown s) := by
  have harm : exec .shutdown s = execShutdown s := rfl
  rw [harm, execShutdown, s.running_of_ne hrun, whenEnabled_true]

/-- Settles O29: the effect is `stop_eq`; the callers are the three events where they are enabled, and
`transmitThen`. -/
theorem stopCompletesAndRecordsTheCause : Obligations.StopCompletesAndRecordsTheCause := by
  unfold Obligations.StopCompletesAndRecordsTheCause
  refine ⟨stop_eq, ⟨rfl, rfl, rfl⟩, fun s => exec_shutdown_of_running, fun s hrun hneed => ?reader,
    fun bs s j => ⟨transmitThen_ioError, transmitThen_closed⟩⟩
  case reader =>
    have hready : s.rxReady = true := s.rxReady_iff.2 ⟨hrun, hneed⟩
    exact ⟨exec_rxClose_of_ready hready, exec_rxError_of_ready hready⟩

/-- Settles O30: `running` is R125's condition. -/
theorem shutdownStopsOnce : Obligations.ShutdownStopsOnce := by
  unfold Obligations.ShutdownStopsOnce
  intro s
  constructor
  · intro hrun
    rw [exec_shutdown_of_running hrun, stop_eq, stopOutcome]
  · intro hstopped
    have harm : exec .shutdown s = execShutdown s := rfl
    rw [harm, execShutdown, State.not_running_of_stopped hstopped, whenEnabled_false]

end Sys2Proof.Machine
end

section
/-! Proofs of the reader statements O37 to O43: the signals (R19), the boundary detector (R90), the bound of the queue
(R37), and the frames the reader cuts from a stream (R40, R94 to R96, R99). -/

namespace Sys2Proof.Machine

/-! ### Signals and disabled events -/

/-- While the read loop runs, exactly one of the reader's two situations holds (R91). -/
theorem State.rxReady_eq_not_frameAvail {s : State} (hrun : s.engState ≠ .stopped) : s.rxReady = !s.frameAvail := by
  rw [State.rxReady, State.frameAvail, s.running_of_ne hrun, Bool.true_and, Bool.true_and]

/-- Settles O38: each signal is the condition it names. -/
theorem signalsReadTheState : Obligations.SignalsReadTheState :=
  fun s => ⟨s.rxReady_iff, s.frameAvail_iff, s.wrReady_iff, State.rxReady_eq_not_frameAvail⟩

/-- A frame that waits, or a stopped engine, takes `rx_ready` away (R19). -/
theorem State.rxReady_eq_false {s : State} (h : s.engState = .stopped ∨ ∃ n, boundary s.rxq = .found n) :
    s.rxReady = false := by
  refine Bool.eq_false_iff.2 fun hready => ?_
  obtain ⟨hrun, hneed⟩ := s.rxReady_iff.1 hready
  rcases h with hstopped | ⟨n, hfound⟩
  · exact hrun hstopped
  · simp [hneed] at hfound

/-- Bytes still missing, or a stopped engine, take `frame_avail` away (R19). -/
theorem State.frameAvail_eq_false {s : State} (h : s.engState = .stopped ∨ boundary s.rxq = .needMore) :
    s.frameAvail = false := by
  refine Bool.eq_false_iff.2 fun havail => ?_
  obtain ⟨hrun, n, hfound⟩ := s.frameAvail_iff.1 havail
  rcases h with hstopped | hneed
  · exact hrun hstopped
  · simp [hneed] at hfound

/-- R144: an RX_CHUNK that is not enabled, or whose chunk does not fit, is passed over. -/
theorem exec_rxChunk_of_not_enabled {s : State} {chunk : List Byte} (h : (s.rxReady && s.chunkFits chunk) = false) :
    exec (.rxChunk chunk) s = .next s := by
  have harm : exec (.rxChunk chunk) s = execRxChunk chunk s := rfl
  rw [harm, execRxChunk, h, whenEnabled_false]

theorem exec_rxClose_of_not_ready {s : State} (h : s.rxReady = false) : exec .rxClose s = .next s := by
  have harm : exec .rxClose s = execRxClose s := rfl
  rw [harm, execRxClose, h, whenEnabled_false]

theorem exec_rxError_of_not_ready {s : State} (h : s.rxReady = false) : exec .rxError s = .next s := by
  have harm : exec .rxError s = execRxError s := rfl
  rw [harm, execRxError, h, whenEnabled_false]

theorem exec_rxExtract_of_not_avail {s : State} (h : s.frameAvail = false) : exec .rxExtract s = .next s := by
  have harm : exec .rxExtract s = execRxExtract s := rfl
  rw [harm, execRxExtract, h, whenEnabled_false]

/-- Settles O37: in each clause a condition of the event fails. -/
theorem disabledReaderEventsChangeNothing : Obligations.DisabledReaderEventsChangeNothing := by
  unfold Obligations.DisabledReaderEventsChangeNothing
  intro chunk s
  refine ⟨fun h => ?notReady, fun h => ?notAvail, fun h => ?tooLong, fun h => ?empty⟩
  case notReady =>
    have hready := State.rxReady_eq_false h
    exact ⟨exec_rxChunk_of_not_enabled (by rw [hready, Bool.false_and]), exec_rxClose_of_not_ready hready,
      exec_rxError_of_not_ready hready⟩
  case notAvail => exact exec_rxExtract_of_not_avail (State.frameAvail_eq_false h)
  case tooLong =>
    have hfits : s.chunkFits chunk = false := Bool.eq_false_iff.2 fun hf => by
      have := ((s.chunkFits_iff chunk).1 hf).2; omega
    exact exec_rxChunk_of_not_enabled (by rw [hfits, Bool.and_false])
  case empty =>
    have hfits : s.chunkFits chunk = false := by simp [State.chunkFits, h]
    exact exec_rxChunk_of_not_enabled (by rw [hfits, Bool.and_false])

/-! ### The boundary detector -/

/-- Bytes after a frame do not move its end (R90). -/
theorem boundary_append {q : List Byte} {n : Nat} (h : boundary q = .found n) (more : List Byte) :
    boundary (q ++ more) = .found n := by
  rcases boundary_found h with ⟨x, t, rfl, hx, rfl⟩ | ⟨l, t, rfl, hl, rfl⟩
  · exact boundary_control (t ++ more) hx
  · rw [List.cons_append, List.cons_append, boundary_sof, if_neg (by simp; omega)]

/-- While more bytes are needed, the queue lacks at least one byte of a frame of 257 (R37). -/
theorem length_le_of_boundary_needMore {q : List Byte} (h : boundary q = .needMore) : q.length ≤ 256 := by
  match q with
  | [] => simp
  | [x] => simp
  | x :: l :: t =>
    by_cases hx : x = 0x01#8
    · subst hx
      rw [boundary_sof] at h
      split at h
      · have := l.isLt; simp; omega
      · simp at h
    · rw [boundary_control _ hx] at h; simp at h

/-- Settles O39: the bounds are those of a found boundary, and the header and Length byte stay where they are. -/
theorem moreBytesNeverMoveABoundary : Obligations.MoreBytesNeverMoveABoundary := by
  unfold Obligations.MoreBytesNeverMoveABoundary
  intro q more n h
  obtain ⟨hpos, hle, hmax⟩ := boundary_found_bounds h
  exact ⟨hpos, hle, hmax, boundary_append h more⟩

/-- Settles O40: `rx_ready` asks BOUNDARY for more bytes, and the capacity is 258. -/
theorem queueAlwaysHasRoomForTwo : Obligations.QueueAlwaysHasRoomForTwo := by
  unfold Obligations.QueueAlwaysHasRoomForTwo
  intro s a b hready
  have hlen : s.rxq.length ≤ 256 := length_le_of_boundary_needMore (s.rxReady_iff.1 hready).2
  simp only [State.chunkFits_iff, Config.RXBUF_CAP, List.length_cons, List.length_nil]
  omega

/-! ### FRAMES of a stream, however it is cut (R96) -/

theorem DispatchEffect.rxq_eq {r : Except FrameError Frame} {s t : State} (h : DispatchEffect r s t) :
    t.rxq = s.rxq := by
  cases h with
  | resolved | logged => rfl
  | published | rejected | failed => exact s.afterDraw_rxq

/-- Only RESET, RX_CHUNK and RX_EXTRACT write the queue (R11). -/
theorem Effect.rxq_eq {i : Instr} {s t : State} (h : Effect s i t) (hi : writesQueue i = false) : t.rxq = s.rxq := by
  cases h with
  | nothing | port | stopped | abandoned | oversize | refused | unknown => rfl
  | written | writeFailed => exact s.afterDraw_rxq
  | reset | chunk => simp [writesQueue] at hi
  | frame _ _ _ _ _ hd ht =>
    obtain rfl := hd.start.2 (by rintro rfl; simp [writesQueue] at hi)
    exact ht.rxq_eq

/-- A run of the reader neither loses nor moves a byte: what was in the queue and what was taken is what was extracted
and what is left, cut where FRAMES cuts it. -/
theorem ReaderRun.frames_eq {s t : State} {bs : List Byte} {fs : List (List Byte)} (h : ReaderRun s bs fs t) :
    s.rxq ++ bs = fs.flatten ++ t.rxq ∧ frames (s.rxq ++ bs) = fs ++ frames t.rxq := by
  induction h with
  | done s => simp
  | @chunk s t u c bs fs ready fits hstep _ ih =>
    have hq : t.rxq = s.rxq ++ c := by
      rw [exec_rxChunk_of_ready ready fits] at hstep
      injection hstep with hstep
      rw [← hstep, State.appendChunk_rxq]
    rwa [hq, List.append_assoc] at ih
  | @extract s t u n bs fs avail found hstep _ ih =>
    have hq : t.rxq = s.rxq.drop n := by
      rw [exec_rxExtract_of_found (s.frameAvail_iff.1 avail).1 found] at hstep
      injection hstep with hstep
      rw [← hstep, dispatch_rxq, State.dropFrame_rxq]
    obtain ⟨-, hle, -⟩ := boundary_found_bounds found
    have htake : (s.rxq ++ bs).take n = s.rxq.take n := List.take_append_of_le_length hle
    have hdrop : (s.rxq ++ bs).drop n = t.rxq ++ bs := by rw [List.drop_append_of_le_length hle, hq]
    obtain ⟨hbytes, hframes⟩ := ih
    constructor
    · rw [List.flatten_cons, List.append_assoc, ← hbytes, ← hdrop, ← htake, List.take_append_drop]
    · rw [frames_found (boundary_append found bs), htake, hdrop, hframes, List.cons_append]
  | other hi hstep _ ih => rwa [(exec_effect hstep).rxq_eq hi] at ih

/-- Settles O41: at the end of the run no frame is left in the queue. -/
theorem framesDoNotDependOnChunking : Obligations.FramesDoNotDependOnChunking := by
  unfold Obligations.FramesDoNotDependOnChunking
  intro s t bs fs hrun hneed
  obtain ⟨hbytes, hframes⟩ := hrun.frames_eq
  exact ⟨by rw [hframes, frames_needMore hneed, List.append_nil], hbytes⟩

/-! ### What an extracted frame decodes to (R95) -/

/-- Settles O42: the Length byte of a cut frame is right, so only its size and its checksum can fail. -/
theorem extractedFramesDecodeAs : Obligations.ExtractedFramesDecodeAs := by
  unfold Obligations.ExtractedFramesDecodeAs
  intro q n h
  rcases boundary_found h with ⟨x, t, rfl, hx, rfl⟩ | ⟨l, t, rfl, hl, rfl⟩
  · exact ⟨fun _ => ⟨x, rfl, hx, decodeFrame_single x⟩, by omega, by omega⟩
  · have hlt : l.toNat < 256 := l.isLt
    have hlen : (t.take l.toNat).length = l.toNat := List.length_take_of_le hl
    rw [List.take_succ_cons, List.take_succ_cons, decodeFrame_sof, hlen]
    refine ⟨by omega, fun _ hsmall => ?small, fun hbig => ?big⟩
    case small => rw [if_pos (by omega)]
    case big =>
      rw [if_neg (by omega), if_neg (by omega), if_neg (not_not_intro rfl)]
      split
      · exact .inl rfl
      · exact .inr ⟨_, rfl⟩

/-! ### One reply for each data frame (R40, R99) -/

/-- RX_CHUNK emits nothing (R92). -/
theorem Effect.out_eq_of_rxChunk {chunk : List Byte} {s t : State} (h : Effect s (.rxChunk chunk) t) :
    t.out = s.out := by
  cases h with
  | nothing | chunk => rfl
  | port _ _ hi => cases hi
  | stopped _ _ _ hi => simp at hi
  | abandoned _ _ _ _ hi => simp at hi
  | frame _ _ _ _ _ hd => cases hd

/-- What DISPATCH puts on TX and PUB while the transport answers Ok (R116 to R121). -/
theorem DispatchEffect.replies {r : Except FrameError Frame} {s t : State} (h : DispatchEffect r s t)
    (ha : s.txAnswer = .ok) : ∃ new, t.out = s.out ++ new ∧
      (∀ k, r = .ok (.control k) → txOf new = [] ∧ pubOf new = []) ∧
      (∀ d, r = .ok (.data d) → txOf new = [0x06#8] ∧ pubOf new = [d]) ∧
      (∀ e, r = .error e → txOf new = [0x15#8] ∧ pubOf new = []) := by
  cases h with
  | resolved | logged =>
    subst r
    exact ⟨_, rfl, fun _ _ => ⟨rfl, rfl⟩, nofun, nofun⟩
  | published d hr =>
    subst hr
    refine ⟨_, rfl, nofun, fun d' hd => ?_, nofun⟩
    cases hd
    exact ⟨rfl, rfl⟩
  | rejected e hr =>
    subst hr
    exact ⟨_, rfl, nofun, nofun, fun _ _ => ⟨rfl, rfl⟩⟩
  | failed j c _ hc => rw [ha] at hc; exact hc.elim

theorem exists_error_of_not_valid {b : List Byte} (hdata : isDataResult (decodeFrame b)) (h : valid b = false) :
    ∃ e, decodeFrame b = .error e := by
  match hr : decodeFrame b with
  | .error e => exact ⟨e, rfl⟩
  | .ok (.data d) => simp [valid_iff.2 ⟨d, hr⟩] at h
  | .ok (.control k) => rw [hr] at hdata; exact hdata.elim

theorem exists_control_of_not_isDataResult {r : Except FrameError Frame} (h : ¬ isDataResult r) :
    ∃ k, r = .ok (.control k) := by
  match r with
  | .ok (.control k) => exact ⟨k, rfl⟩
  | .ok (.data _) => exact absurd trivial h
  | .error _ => exact absurd trivial h

/-- Settles O43: a cut frame decodes to a control frame exactly when its header is not SOF (R95), and a valid one to a
data frame. -/
theorem oneReplyByteForEachDataFrame : Obligations.OneReplyByteForEachDataFrame := by
  unfold Obligations.OneReplyByteForEachDataFrame
  refine ⟨fun chunk s t hexec => (exec_effect hexec).out_eq_of_rxChunk, ?extract⟩
  case extract =>
    intro s t n hrun hfound ha hexec
    rw [exec_rxExtract_of_found hrun hfound] at hexec
    injection hexec with hexec
    subst hexec
    obtain ⟨new, hout, hcontrol, hdata, herror⟩ :=
      (dispatch_effect (decodeFrame (s.rxq.take n)) (s.dropFrame n)).replies ha
    have hsof := found_isDataResult hfound
    refine ⟨new, hout, fun hhead => ⟨fun hvalid => ?valid, fun hvalid => ?invalid⟩, fun hhead => ?control⟩
    case valid =>
      obtain ⟨d, hd⟩ := valid_iff.1 hvalid
      exact ⟨(hdata d hd).1, d, (hdata d hd).2⟩
    case invalid =>
      obtain ⟨e, he⟩ := exists_error_of_not_valid (hsof.2 hhead) hvalid
      exact herror e he
    case control =>
      obtain ⟨k, hk⟩ := exists_control_of_not_isDataResult (mt hsof.1 hhead)
      exact hcontrol k hk

end Sys2Proof.Machine
end

section
/-! Proofs of the codec statements O44 to O48 and O50 to O52: the operations of the codec port (R72 to R77, R90), and
the laws of the codec (R80 to R82). -/

namespace Sys2Proof.Machine

/-! ### The codec port -/

/-- Settles O44: the span of `first :: span ++ [last]` is `span`. -/
theorem checksumFoldsTheSpan : Obligations.ChecksumFoldsTheSpan := by
  unfold Obligations.ChecksumFoldsTheSpan
  constructor
  · intro first last span s
    have harm : exec (.checksum (first :: (span ++ [last]))) s = execChecksum (first :: (span ++ [last])) s := rfl
    rw [harm, execChecksum, if_neg (by simp), checksum_wrap, State.emit]
  · intro b s hb
    exact if_pos hb

/-- Settles O45: as for CHECKSUM, which gives the byte. -/
theorem updateChecksumWritesTheLastByte : Obligations.UpdateChecksumWritesTheLastByte := by
  unfold Obligations.UpdateChecksumWritesTheLastByte
  constructor
  · intro first last span s
    have harm : exec (.updateChecksum (first :: (span ++ [last]))) s =
        execUpdateChecksum (first :: (span ++ [last])) s := rfl
    rw [harm, execUpdateChecksum, if_neg (by simp), updateChecksum_wrap, State.emit]
  · intro b s hb
    exact if_pos hb

/-- R73, D34: ENCODE answers on the port. -/
theorem exec_encode (mt cmd : Byte) (ps : List Byte) (s : State) :
    exec (.encode mt cmd ps) s = .next (s.emit (.port (.encode (encodeFrame mt cmd ps)))) := rfl

/-- Settles O46: the two branches of ENCODE. -/
theorem encodeLaysOutTheFields : Obligations.EncodeLaysOutTheFields := by
  unfold Obligations.EncodeLaysOutTheFields
  intro mt cmd ps s
  rw [exec_encode, State.emit]
  exact ⟨fun hl => ⟨_, by rw [encodeFrame_small mt cmd hl]⟩, fun hl => by rw [encodeFrame_large mt cmd hl]⟩

/-- Settles O47: the tests in the order of R77, by the length and the header of the operand. -/
theorem decodeReportsTheFirstFailingTest : Obligations.DecodeReportsTheFirstFailingTest := by
  unfold Obligations.DecodeReportsTheFirstFailingTest
  refine ⟨fun _ _ => rfl, rfl, ⟨decodeFrame_single _, decodeFrame_single _, decodeFrame_single _⟩,
    fun x hack hnak hcan => ?unknown, decodeFrame_badHeader, fun l t => ?lengths, fun l mt cmd c ps hl => ?layout⟩
  case unknown => rw [decodeFrame_single, kind_unknown hack hnak hcan]
  case lengths =>
    rw [decodeFrame_sof]
    refine ⟨fun h => if_pos h, fun h => ?_, fun hmin hmax hne => ?_⟩
    · rw [if_neg (by omega), if_pos h]
    · rw [if_neg (by omega), if_neg (by omega), if_pos hne]
  case layout =>
    rw [decodeFrame_layout l mt cmd c ps hl]
    exact ⟨fun hc => if_pos hc, fun hc => if_neg (not_not_intro hc)⟩

/-- Settles O48: the header and the Length byte decide, as in R90. -/
theorem boundaryAnswersOnThePort : Obligations.BoundaryAnswersOnThePort := by
  unfold Obligations.BoundaryAnswersOnThePort
  refine ⟨fun _ _ => rfl, by decide, fun _ t hh => boundary_control t hh, fun l t => ?sof⟩
  case sof =>
    rw [boundary_sof]
    exact ⟨fun h => if_pos h, fun h => if_neg (by omega)⟩

/-! ### FRAME and DECODE (R80) -/

/-- Settles O50: both directions go through the layout R52, whose Length byte is the number of parameters and 3. -/
theorem frameAndDecodeAreInverse : Obligations.FrameAndDecodeAreInverse := by
  unfold Obligations.FrameAndDecodeAreInverse
  constructor
  · intro mt cmd ps hl
    refine ⟨_, frameBytes_small mt cmd hl, ?_⟩
    rw [decodeFrame_frame mt cmd hl]
    exact congrArg
      (fun c => Except.ok (Frame.data { messageType := mt, command := cmd, parameters := ps, checksum := c }))
      (checksum_wrap 0x01#8 _ ([BitVec.ofNat 8 (ps.length + 3), mt, cmd] ++ ps)).symm
  · intro b d hd
    obtain ⟨l, hb, hl, hc⟩ := layout_of_decodeFrame_data hd
    have hlt : l.toNat < 256 := l.isLt
    have hlength : BitVec.ofNat 8 (d.parameters.length + 3) = l := by rw [← hl, BitVec.ofNat_toNat, BitVec.setWidth_eq]
    rw [frameBytes_small _ _ (by omega), hlength, ← hc, ← hb]

/-! ### What the checksum detects (R81) -/

/-- The exclusive-or of a run with its complement is all ones. -/
theorem foldl_xor_complement (bs : List Byte) :
    (bs ++ [~~~(bs.foldl (· ^^^ ·) 0#8)]).foldl (· ^^^ ·) 0#8 = 0xFF#8 := by
  rw [foldl_xor_append, List.foldl_cons, List.foldl_nil, BitVec.zero_xor, ← BitVec.not_xor_right, BitVec.xor_self]
  rfl

/-- The exclusive-or from offset 1 on is all ones in every valid frame. -/
theorem foldl_xor_tail_of_valid {b : List Byte} (h : valid b = true) : b.tail.foldl (· ^^^ ·) 0#8 = 0xFF#8 := by
  obtain ⟨d, hd⟩ := valid_iff.1 h
  obtain ⟨l, hb, -, hc⟩ := layout_of_decodeFrame_data hd
  have htail : b.tail = ([l, d.messageType, d.command] ++ d.parameters) ++ [d.checksum] := by rw [hb]; rfl
  rw [htail, hc, foldl_xor_complement]

/-- A different byte at one place gives a different exclusive-or. -/
theorem foldl_xor_set_ne {bs : List Byte} {k : Nat} {x : Byte} (hk : k < bs.length) (hx : bs[k]? ≠ some x) :
    (bs.set k x).foldl (· ^^^ ·) 0#8 ≠ bs.foldl (· ^^^ ·) 0#8 := by
  induction bs generalizing k with
  | nil => simp at hk
  | cons y ys ih =>
    cases k with
    | zero =>
      have hne : x ≠ y := by simpa [eq_comm] using hx
      rw [List.set_cons_zero, List.foldl_cons, List.foldl_cons, foldl_xor_start, foldl_xor_start (0#8 ^^^ y)]
      simpa using hne
    | succ k =>
      rw [List.set_cons_succ, List.foldl_cons, List.foldl_cons, foldl_xor_start, foldl_xor_start (0#8 ^^^ y)]
      simpa using ih (by simpa using hk) (by simpa using hx)

/-- Settles O51: one changed byte changes the exclusive-or, which is 0xFF in every valid frame. -/
theorem oneChangedByteIsDetected : Obligations.OneChangedByteIsDetected := by
  unfold Obligations.OneChangedByteIsDetected
  intro b hvalid
  have hsum := foldl_xor_tail_of_valid hvalid
  refine ⟨hsum, fun k x hpos hlt hx => Bool.eq_false_iff.2 fun hvalid' => ?_⟩
  obtain ⟨j, rfl⟩ : ∃ j, k = j + 1 := ⟨k - 1, by omega⟩
  cases b with
  | nil => simp at hlt
  | cons h t =>
    have hsum' := foldl_xor_tail_of_valid hvalid'
    rw [List.set_cons_succ, List.tail_cons] at hsum'
    exact foldl_xor_set_ne (by simpa using hlt) (by simpa using hx) (hsum'.trans hsum.symm)

/-! ### The lengths at the edges (R82) -/

/-- DECODE of a string with the header SOF, of 2 bytes or more. -/
theorem exists_sof_of_head {b : List Byte} (hhead : b.head? = some 0x01#8) (hlen : 2 ≤ b.length) :
    ∃ l t, b = 0x01#8 :: l :: t := by
  match b with
  | [] => simp at hlen
  | [_] => simp at hlen
  | x :: l :: t => exact ⟨l, t, by simpa using hhead⟩

/-- FrameTooBig is reported for SOF strings of 259 bytes or more only. -/
theorem decodeFrame_frameTooBig_iff (b : List Byte) :
    decodeFrame b = .error .frameTooBig ↔ b.head? = some 0x01#8 ∧ 259 ≤ b.length := by
  match b with
  | [] => simp [decodeFrame]
  | [x] => simp [decodeFrame_single]
  | x :: l :: t =>
    by_cases hx : x = 0x01#8
    · subst hx
      rw [decodeFrame_sof]
      by_cases hbig : 256 < t.length
      · rw [if_neg (by omega), if_pos hbig]
        simp; omega
      · rw [if_neg hbig]
        refine iff_of_false ?_ (by simp; omega)
        split_ifs <;> simp
    · simp [decodeFrame_badHeader x l t hx, hx]

/-- Settles O52: a SOF string of 258 bytes would need a Length byte of 256. -/
theorem decodeLengthEdges : Obligations.DecodeLengthEdges := by
  unfold Obligations.DecodeLengthEdges
  intro b
  refine ⟨fun hlen hhead => ?mismatch, decodeFrame_frameTooBig_iff b, fun d hd => ?data⟩
  case mismatch =>
    obtain ⟨l, t, rfl⟩ := exists_sof_of_head hhead (by omega)
    have hlt : l.toNat < 256 := l.isLt
    have ht : t.length = 256 := by simpa using hlen
    rw [decodeFrame_sof, ht, if_neg (by omega), if_neg (by omega), if_pos (by omega)]
  case data =>
    obtain ⟨l, hb, hl, -⟩ := layout_of_decodeFrame_data hd
    have hlt : l.toNat < 256 := l.isLt
    have hlen : b.length = d.parameters.length + 5 := by rw [hb]; simp
    omega

end Sys2Proof.Machine
end

section
/-! Proofs of the engine statements O33, O34 and O53 to O57: what an event can put on each channel (R21, R23), where the
write it completes comes from (R128, R148), and how ENG_STATE can change (R131, R152). Each takes the cases of
`Effect`. -/

namespace Sys2Proof.Machine

/-! ### The output is written and never read (R23) -/

/-- The event answers the same, and appends the same records, whatever records stand before them. -/
def ReadsNoOutput (i : Instr) : Prop :=
  ∀ (s : State) (before : List OutRecord),
    (∀ t, exec i s = .next t → ∃ new, t.out = s.out ++ new ∧
      exec i (s.withOut before) = .next (t.withOut (before ++ new))) ∧
    (∀ r, exec i s = .refused r → exec i (s.withOut before) = .refused r)

/-- An event that always answers, by an appending operation. -/
theorem readsNoOutput_of_appends {i : Instr} {f : State → State} (hf : Appends f)
    (h : ∀ s, exec i s = .next (f s)) : ReadsNoOutput i := by
  intro s before
  constructor
  · intro t ht
    obtain rfl : f s = t := by rw [h] at ht; injection ht
    obtain ⟨new, hout, hwith⟩ := hf.out s
    exact ⟨new, hout, by rw [h, hwith]⟩
  · intro r hr
    rw [h] at hr
    simp at hr

/-- An event that is guarded by a condition on the unit's own state. -/
theorem readsNoOutput_of_guard {i : Instr} {c : State → Bool} {f : State → State} (hf : Appends f)
    (hc : ∀ (s : State) o, c (s.withOut o) = c s) (h : ∀ s, exec i s = whenEnabled (c s) f s) : ReadsNoOutput i :=
  readsNoOutput_of_appends (appends_guard hc hf) h

/-- An event that is refused for its operand. -/
theorem readsNoOutput_of_refused {i : Instr} {r : Refusal} (h : ∀ s, exec i s = .refused r) : ReadsNoOutput i := by
  intro s before
  rw [h, h]
  exact ⟨nofun, fun _ hr => hr⟩

/-- R23 (d) for every event: each is guarded by a condition on the unit's state and runs an appending operation, but for
the two codec operations that may be refused. -/
theorem readsNoOutput (i : Instr) : ReadsNoOutput i := by
  cases i with
  | data l body => exact readsNoOutput_of_guard (appends_dispatch _) (fun _ _ => rfl) (fun _ => rfl)
  | ack => exact readsNoOutput_of_guard appends_dispatchAck (fun _ _ => rfl) (fun _ => rfl)
  | nak => exact readsNoOutput_of_guard appends_dispatchNak (fun _ _ => rfl) (fun _ => rfl)
  | can => exact readsNoOutput_of_guard appends_dispatchCan (fun _ _ => rfl) (fun _ => rfl)
  | unknown x => exact readsNoOutput_of_guard (appends_emit (.log (.unknownControl x))) (fun _ _ => rfl) (fun _ => rfl)
  | reset => exact readsNoOutput_of_appends (appends_of_silent fun _ _ => rfl) (fun _ => rfl)
  | write mt cmd ps h d =>
    exact readsNoOutput_of_guard (appends_writeWithPermit mt cmd ps h d) (fun _ _ => rfl) (fun _ => rfl)
  | cancel h => exact readsNoOutput_of_guard (appends_resolve _) (fun _ _ => rfl) (fun _ => rfl)
  | timeout h => exact readsNoOutput_of_guard (appends_resolve _) (fun _ _ => rfl) (fun _ => rfl)
  | shutdown => exact readsNoOutput_of_guard (appends_stop _) (fun _ _ => rfl) (fun _ => rfl)
  | rxChunk c => exact readsNoOutput_of_guard (appends_appendChunk c) (fun _ _ => rfl) (fun _ => rfl)
  | rxClose => exact readsNoOutput_of_guard (appends_stop _) (fun _ _ => rfl) (fun _ => rfl)
  | rxError => exact readsNoOutput_of_guard (appends_stop _) (fun _ _ => rfl) (fun _ => rfl)
  | rxExtract => exact readsNoOutput_of_guard appends_extractFrame (fun _ _ => rfl) (fun _ => rfl)
  | checksum b =>
    by_cases hb : b.length < 2
    · exact readsNoOutput_of_refused fun _ => if_pos hb
    · exact readsNoOutput_of_appends (appends_emit (.port (.checksum (checksum b)))) fun _ => if_neg hb
  | encode mt cmd ps => exact readsNoOutput_of_appends (appends_emit _) (exec_encode mt cmd ps)
  | updateChecksum b =>
    by_cases hb : b.length < 2
    · exact readsNoOutput_of_refused fun _ => if_pos hb
    · exact readsNoOutput_of_appends (appends_emit (.port (.updateChecksum (updateChecksum b)))) fun _ => if_neg hb
  | decode b => exact readsNoOutput_of_appends (appends_emit (.port (.decode (decodeFrame b)))) fun _ => rfl
  | boundary q => exact readsNoOutput_of_appends (appends_emit (.port (.boundary (boundary q)))) fun _ => rfl

/-- Settles O57: `withOut` replaces the records and nothing else. -/
theorem outputsAreNeverRead : Obligations.OutputsAreNeverRead := readsNoOutput

/-- Records are only ever appended. -/
theorem exec_out_append {i : Instr} {s t : State} (h : exec i s = .next t) : ∃ new, t.out = s.out ++ new := by
  obtain ⟨new, hout, -⟩ := (readsNoOutput i s []).1 t h
  exact ⟨new, hout⟩

/-! ### Every accepted write is completed exactly once (R148) -/

theorem pendingHandles_some {s : State} {p : PendingWrite} (hp : s.pending = some p) :
    pendingHandles s = [p.handle] := by
  rw [pendingHandles, hp]; rfl

theorem pendingHandles_none {s : State} (hp : s.pending = none) : pendingHandles s = [] := by
  rw [pendingHandles, hp]; rfl

/-- Only WRITE accepts a handle. -/
theorem acceptedHandles_of_dispatches {s s0 : State} {i : Instr} {f : List Byte} (h : Dispatches s i f s0) :
    acceptedHandles i s = [] := by
  cases h <;> rfl

theorem acceptedHandles_of_portOp {i : Instr} (h : PortOp i) (s : State) : acceptedHandles i s = [] := by
  cases h <;> rfl

theorem acceptedHandles_of_free (mt cmd : Byte) (ps : List Byte) (h : Handle) (d : Option Deadline) {s : State}
    (hp : s.permit = .free) : acceptedHandles (.write mt cmd ps h d) s = [h] := if_pos hp

/-- While the permit is held no handle is accepted (R128). -/
theorem acceptedHandles_of_held (i : Instr) {s : State} (hp : s.permit = .held) : acceptedHandles i s = [] := by
  cases i with
  | write => exact if_neg (by simp [hp])
  | data | ack | nak | can | unknown | reset | cancel | timeout | shutdown | rxChunk | rxClose | rxError | rxExtract
  | checksum | encode | updateChecksum | decode | boundary => rfl

/-- A stop completes the pending write, if there is one. -/
theorem map_fst_cplOf_completionOf (s : State) (o : WriteOutcome) :
    (cplOf (completionOf s.pending o)).map Prod.fst = pendingHandles s := by
  rw [cplOf_completionOf, pendingHandles]
  cases s.pending <;> rfl

/-- DISPATCH completes the pending write or leaves it pending. -/
theorem DispatchEffect.completes_once {r : Except FrameError Frame} {s t : State} (h : DispatchEffect r s t) :
    ∃ new, t.out = s.out ++ new ∧ (cplOf new).map Prod.fst ++ pendingHandles t = pendingHandles s := by
  cases h with
  | resolved _ p o _ _ hp => exact ⟨_, rfl, by rw [pendingHandles_some hp]; rfl⟩
  | logged _ x => exact ⟨[.log x], rfl, rfl⟩
  | published | rejected => exact ⟨_, rfl, by simp [cplOf, OutRecord.cpl?, pendingHandles]⟩
  | failed j c =>
    refine ⟨_, rfl, ?_⟩
    have hlog : cplOf (rejectionLog r) = [] := by cases r <;> rfl
    rw [cplOf_append, cplOf_append, hlog, cplOf_tx, List.nil_append, List.nil_append, map_fst_cplOf_completionOf]
    exact List.append_nil _

/-- What an event completes and leaves pending is what was pending and what it accepts. -/
theorem Effect.completes_once {i : Instr} {s t : State} (h : Effect s i t) (hinv : UnitInv s) (hi : i ≠ .reset) :
    ∃ new, t.out = s.out ++ new ∧
      (cplOf new).map Prod.fst ++ pendingHandles t = pendingHandles s ++ acceptedHandles i s := by
  cases h with
  | nothing _ hi =>
    rcases hi with hacc | ⟨hfree, he⟩ | ⟨he, hcause⟩
    · exact ⟨[], by simp, by simp [hacc, cplOf]⟩
    · simp [hinv.permit_eq_held he] at hfree
    · exact absurd hcause (hinv.stopCause_ne_none he)
  | reset => exact absurd rfl hi
  | port _ r hport => exact ⟨_, rfl, by rw [acceptedHandles_of_portOp hport, List.append_nil]; rfl⟩
  | chunk c => exact ⟨[], by simp, by simp [cplOf, pendingHandles, acceptedHandles]⟩
  | stopped _ c _ hi =>
    refine ⟨_, rfl, ?_⟩
    rw [map_fst_cplOf_completionOf]
    rcases hi with rfl | rfl | rfl <;> rfl
  | abandoned _ p o hp hi =>
    refine ⟨_, rfl, ?_⟩
    rw [pendingHandles_some hp]
    rcases hi with rfl | ⟨rfl, -⟩ <;> rfl
  | oversize mt cmd ps hd d hp he | refused mt cmd ps hd d _ hp he =>
    have hnone := hinv.pending_eq_none (by simp [he])
    refine ⟨_, rfl, ?_⟩
    rw [acceptedHandles_of_free mt cmd ps hd d hp, pendingHandles_none hnone]
    exact congrArg (hd :: ·) (pendingHandles_none hnone)
  | written mt cmd ps hd d f hp he =>
    have hnone := hinv.pending_eq_none (by simp [he])
    refine ⟨_, rfl, ?_⟩
    rw [acceptedHandles_of_free mt cmd ps hd d hp, pendingHandles_none hnone, cplOf_tx]
    rfl
  | writeFailed mt cmd ps hd d f j c hp he =>
    have hnone := hinv.pending_eq_none (by simp [he])
    refine ⟨_, rfl, ?_⟩
    rw [acceptedHandles_of_free mt cmd ps hd d hp, pendingHandles_none hnone, cplOf_append, cplOf_tx]
    rfl
  | unknown x =>
    exact ⟨[.log (.unknownControl x)], rfl, by simp [cplOf, OutRecord.cpl?, pendingHandles, acceptedHandles]⟩
  | frame _ _ s0 _ _ hd ht =>
    have hs0 := hd.start.1
    obtain ⟨new, hout, hnew⟩ := ht.completes_once
    rw [acceptedHandles_of_dispatches hd, List.append_nil]
    rw [hs0] at hout hnew
    exact ⟨new, hout, hnew⟩

/-- Settles O53: the cases of `Effect`. -/
theorem everyAcceptedWriteCompletesOnce : Obligations.EveryAcceptedWriteCompletesOnce :=
  fun _ _ _ hinv hi hexec => (exec_effect hexec).completes_once hinv hi

/-! ### One write in flight (R128) -/

theorem Steps.out_append {s t : State} {is : List Instr} (h : Steps s is t) : ∃ new, t.out = s.out ++ new := by
  induction h with
  | done s => exact ⟨[], by simp⟩
  | event _ hexec _ ih =>
    obtain ⟨new, hnew⟩ := exec_out_append hexec
    obtain ⟨later, hlater⟩ := ih
    exact ⟨new ++ later, by rw [hlater, hnew, List.append_assoc]⟩

theorem Steps.keeps_unitInv {s t : State} {is : List Instr} (h : Steps s is t) (hinv : UnitInv s) : UnitInv t := by
  induction h with
  | done => exact hinv
  | event _ hexec _ ih => exact ih ((exec_effect hexec).keeps_unitInv hinv)

/-- With a write pending, an event completes it or leaves it pending. -/
theorem exec_completes_or_keeps {i : Instr} {s t : State} {h : Handle} (hinv : UnitInv s)
    (hp : pendingHandles s = [h]) (hi : i ≠ .reset) (hexec : exec i s = .next t) :
    ∃ new, t.out = s.out ++ new ∧ (pendingHandles t = [h] ∨ ∃ o, (h, o) ∈ cplOf new) := by
  have he : s.engState = .awaitingAck := by
    by_contra hne
    simp [pendingHandles_none (hinv.pending_eq_none hne)] at hp
  obtain ⟨new, hout, hnew⟩ := everyAcceptedWriteCompletesOnce i s t hinv hi hexec
  rw [hp, acceptedHandles_of_held i (hinv.permit_eq_held he), List.append_nil, List.append_eq_singleton_iff] at hnew
  refine ⟨new, hout, ?_⟩
  rcases hnew with ⟨-, hpending⟩ | ⟨hcompleted, -⟩
  · exact .inl hpending
  · have hmem : h ∈ (cplOf new).map Prod.fst := by simp [hcompleted]
    obtain ⟨⟨_, o⟩, ho, rfl⟩ := List.mem_map.1 hmem
    exact .inr ⟨o, ho⟩

/-- Along a run without RESET a pending write stays pending until it is completed. -/
theorem Steps.completes_or_keeps {s t : State} {is : List Instr} {h : Handle} (hrun : Steps s is t) (hinv : UnitInv s)
    (hp : pendingHandles s = [h]) :
    ∃ new, t.out = s.out ++ new ∧ (pendingHandles t = [h] ∨ ∃ o, (h, o) ∈ cplOf new) := by
  induction hrun with
  | done => exact ⟨[], by simp, .inl hp⟩
  | event hi hexec rest ih =>
    obtain ⟨new, hout, hnew⟩ := exec_completes_or_keeps hinv hp hi hexec
    rcases hnew with hpending | ⟨o, ho⟩
    · obtain ⟨later, hlater, hcases⟩ := ih ((exec_effect hexec).keeps_unitInv hinv) hpending
      refine ⟨new ++ later, by rw [hlater, hout, List.append_assoc], hcases.imp_right fun ⟨o, ho⟩ => ⟨o, ?_⟩⟩
      rw [cplOf_append]
      exact List.mem_append_right _ ho
    · obtain ⟨later, hlater⟩ := rest.out_append
      refine ⟨new ++ later, by rw [hlater, hout, List.append_assoc], .inr ⟨o, ?_⟩⟩
      rw [cplOf_append]
      exact List.mem_append_left _ ho

/-- Settles O54: a free permit means that nothing is pending (R16), so the write was completed; a held one disables
WRITE. -/
theorem oneWriteInFlight : Obligations.OneWriteInFlight := by
  unfold Obligations.OneWriteInFlight
  constructor
  · intro s t is p hinv hp hrun
    obtain ⟨new, hout, hcases⟩ := hrun.completes_or_keeps hinv (pendingHandles_some hp)
    refine ⟨new, hout, fun hfree => hcases.resolve_left fun hpending => ?_⟩
    have hinv' := hrun.keeps_unitInv hinv
    have hne : t.engState ≠ .awaitingAck := fun he => by simp [hinv'.permit_eq_held he] at hfree
    simp [pendingHandles_none (hinv'.pending_eq_none hne)] at hpending
  · intro mt cmd ps h d s t hheld hexec
    rw [exec_write_of_held mt cmd ps h d hheld] at hexec
    injection hexec with hexec
    rw [hexec]

/-! ### A stopped engine (R152, R153) -/

/-- Settles O33: the cases of `Effect` that a stopped engine with nothing pending has. -/
theorem onlyResetLeavesStopped : Obligations.OnlyResetLeavesStopped := by
  unfold Obligations.OnlyResetLeavesStopped
  intro i s t hinv hstopped hi hexec
  cases exec_effect hexec with
  | nothing => exact ⟨[], by simp, rfl, rfl, rfl⟩
  | reset => exact absurd rfl hi
  | port _ r => exact ⟨[.port r], rfl, rfl, rfl, rfl⟩
  | refused _ _ _ h _ o => exact ⟨[.cpl h o], rfl, rfl, rfl, rfl⟩
  | chunk _ hrun | stopped _ _ hrun | unknown _ hrun | frame _ _ _ _ hrun => exact absurd hstopped hrun
  | abandoned _ p _ hp => simp [hinv.engState_of_pending hp] at hstopped
  | oversize _ _ _ _ _ _ he | written _ _ _ _ _ _ _ he | writeFailed _ _ _ _ _ _ _ _ _ he => simp [he] at hstopped

/-! ### The frame behind a reply (R99, R115) -/

/-- A data frame, valid or not, comes to DISPATCH from the DATA row or from the head of the queue. -/
theorem Dispatches.source_of_isDataResult {s s0 : State} {i : Instr} {f : List Byte} (h : Dispatches s i f s0)
    (hdata : isDataResult (decodeFrame f)) :
    (∃ l body, i = .data l body ∧ f = 0x01#8 :: l :: body) ∨
    (i = .rxExtract ∧ ∃ n, boundary s.rxq = .found n ∧ f = s.rxq.take n) := by
  cases h with
  | data l body => exact .inl ⟨l, body, rfl, rfl⟩
  | ack | nak | can => rw [decodeFrame_single] at hdata; exact hdata.elim
  | extract n hfound => exact .inr ⟨rfl, n, hfound, rfl⟩

/-- The same, by the header at the head of the queue. -/
theorem Dispatches.instr_of_isDataResult {s s0 : State} {i : Instr} {f : List Byte} (h : Dispatches s i f s0)
    (hdata : isDataResult (decodeFrame f)) :
    (∃ l body, i = .data l body) ∨ (i = .rxExtract ∧ s.rxq.head? = some 0x01#8) := by
  rcases h.source_of_isDataResult hdata with ⟨l, body, hi, -⟩ | ⟨hi, n, hfound, rfl⟩
  · exact .inl ⟨l, body, hi⟩
  · exact .inr ⟨hi, (found_isDataResult hfound).1 hdata⟩

theorem Dispatches.out_eq {s s0 : State} {i : Instr} {f : List Byte} (h : Dispatches s i f s0) : s0.out = s.out := by
  rw [h.start.1]

theorem Dispatches.txAnswer_eq {s s0 : State} {i : Instr} {f : List Byte} (h : Dispatches s i f s0) :
    s0.txAnswer = s.txAnswer := by
  rw [h.start.1]; rfl

theorem Dispatches.engState_eq {s s0 : State} {i : Instr} {f : List Byte} (h : Dispatches s i f s0) :
    s0.engState = s.engState := by
  rw [h.start.1]

theorem Dispatches.pending_eq {s s0 : State} {i : Instr} {f : List Byte} (h : Dispatches s i f s0) :
    s0.pending = s.pending := by
  rw [h.start.1]

/-! ### TX (R99, R110, R130) -/

/-- DISPATCH puts nothing on TX, or the one reply byte of a data frame. -/
theorem DispatchEffect.tx_bytes {r : Except FrameError Frame} {s t : State} (h : DispatchEffect r s t) :
    ∃ new, t.out = s.out ++ new ∧
      (txOf new = [] ∨ (txOf new = [0x06#8] ∨ txOf new = [0x15#8]) ∧ isDataResult r) := by
  cases h with
  | resolved | logged => exact ⟨_, rfl, .inl rfl⟩
  | published d hr => exact ⟨_, rfl, .inr ⟨.inl rfl, by rw [hr]; trivial⟩⟩
  | rejected e hr => exact ⟨_, rfl, .inr ⟨.inr rfl, by rw [hr]; trivial⟩⟩
  | failed j c hdata =>
    refine ⟨_, rfl, ?_⟩
    have hlog : txOf (rejectionLog r) = [] := by cases r <;> rfl
    rw [txOf_append, txOf_append, hlog, txOf_tx, txOf_completionOf, List.nil_append, List.append_nil]
    cases j with
    | zero => exact .inl rfl
    | succ j =>
      refine .inr ⟨?_, hdata⟩
      rw [List.take_succ_cons, List.take_nil]
      cases r with
      | ok => exact .inl rfl
      | error => exact .inr rfl

/-- Settles O55: the cases of `Effect`; a failed transmit leaves the first bytes of what it was given. -/
theorem txBytesAreFramesOrReplies : Obligations.TxBytesAreFramesOrReplies := by
  unfold Obligations.TxBytesAreFramesOrReplies
  intro i s t hexec
  cases exec_effect hexec with
  | nothing | reset | chunk => exact ⟨[], by simp, .inl rfl⟩
  | port | abandoned | oversize | refused | unknown => exact ⟨_, rfl, .inl rfl⟩
  | stopped => exact ⟨_, rfl, .inl (txOf_completionOf _ _)⟩
  | written mt cmd ps h d f hp he _ hf =>
    exact ⟨_, rfl, .inr (.inl ⟨mt, cmd, ps, h, d, f, rfl, hp, he, hf, [], by rw [txOf_tx, List.append_nil]⟩)⟩
  | writeFailed mt cmd ps h d f j c hp he _ hf =>
    refine ⟨_, rfl, .inr (.inl ⟨mt, cmd, ps, h, d, f, rfl, hp, he, hf, f.drop j, ?_⟩)⟩
    have hcpl : txOf [OutRecord.cpl h (stopOutcome c)] = [] := rfl
    rw [txOf_append, txOf_tx, hcpl, List.append_nil, List.take_append_drop]
  | frame _ _ s0 _ hrun hd ht =>
    obtain ⟨new, hout, htx⟩ := ht.tx_bytes
    refine ⟨new, hd.out_eq ▸ hout, ?_⟩
    rcases htx with hnone | ⟨hreply, hdata⟩
    · exact .inl hnone
    · exact .inr (.inr ⟨hreply, hrun, hd.instr_of_isDataResult hdata⟩)

/-! ### PUB (R120, R129) -/

/-- DISPATCH publishes a valid data frame after its ACK, and nothing else. -/
theorem DispatchEffect.published_frames {r : Except FrameError Frame} {s t : State} (h : DispatchEffect r s t) :
    ∃ new, t.out = s.out ++ new ∧
      (pubOf new = [] ∨ ∃ d, new = [.tx 0x06#8, .pub d] ∧ r = .ok (.data d) ∧ s.txAnswer = .ok) := by
  cases h with
  | resolved | logged | rejected => exact ⟨_, rfl, .inl rfl⟩
  | published d hr ha => exact ⟨_, rfl, .inr ⟨d, rfl, hr, ha⟩⟩
  | failed j c =>
    refine ⟨_, rfl, .inl ?_⟩
    have hlog : pubOf (rejectionLog r) = [] := by cases r <;> rfl
    rw [pubOf_append, pubOf_append, hlog, pubOf_tx, pubOf_completionOf]
    rfl

/-- Settles O56: the cases of `Effect`; only DISPATCH publishes. -/
theorem publishedOnlyAfterItsAck : Obligations.PublishedOnlyAfterItsAck := by
  unfold Obligations.PublishedOnlyAfterItsAck
  intro i s t hexec
  cases exec_effect hexec with
  | nothing | reset | chunk => exact ⟨[], by simp, .inl rfl⟩
  | port | abandoned | oversize | refused | unknown => exact ⟨_, rfl, .inl rfl⟩
  | stopped => exact ⟨_, rfl, .inl (pubOf_completionOf _ _)⟩
  | written => exact ⟨_, rfl, .inl (pubOf_tx _)⟩
  | writeFailed => exact ⟨_, rfl, .inl (by rw [pubOf_append, pubOf_tx]; rfl)⟩
  | frame _ f s0 _ _ hd ht =>
    obtain ⟨new, hout, hpub⟩ := ht.published_frames
    refine ⟨new, hd.out_eq ▸ hout, ?_⟩
    rcases hpub with hnone | ⟨d, hnew, hdecode, ha⟩
    · exact .inl hnone
    · exact .inr ⟨d, f, hnew, hdecode, hd.txAnswer_eq ▸ ha, hd.source_of_isDataResult (by rw [hdecode]; trivial)⟩

/-! ### The transition table (R131) -/

/-- A failed transmit is not an Ok answer (R112). -/
theorem ne_ok_of_answerStops {a : TxAnswer} {c : StopCause} (h : answerStops a c) : a ≠ .ok := by
  rintro rfl
  exact h

/-- KIND names three bytes (R76). -/
theorem header_of_kind {x : Byte} (h : kind x = .ack ∨ kind x = .nak ∨ kind x = .can) :
    x = 0x06#8 ∨ x = 0x15#8 ∨ x = 0x18#8 := by
  by_contra hne
  simp only [not_or] at hne
  obtain ⟨hack, hnak, hcan⟩ := hne
  simp [kind_unknown hack hnak hcan] at h

/-- An ACK, NAK or CAN comes to DISPATCH from its own row or from the head of the queue. -/
theorem Dispatches.instr_of_control {s s0 : State} {i : Instr} {f : List Byte} {k : ControlKind}
    (h : Dispatches s i f s0) (hdecode : decodeFrame f = .ok (.control k)) (hk : k = .ack ∨ k = .nak ∨ k = .can) :
    i = .ack ∨ i = .nak ∨ i = .can ∨
    (i = .rxExtract ∧ (s.rxq.head? = some 0x06#8 ∨ s.rxq.head? = some 0x15#8 ∨ s.rxq.head? = some 0x18#8)) := by
  cases h with
  | ack => exact .inl rfl
  | nak => exact .inr (.inl rfl)
  | can => exact .inr (.inr (.inl rfl))
  | data l body =>
    have hdata : isDataResult (decodeFrame (Config.SOF :: l :: body)) := isDataResult_sof l body
    rw [hdecode] at hdata
    exact hdata.elim
  | extract n hfound =>
    refine .inr (.inr (.inr ⟨rfl, ?_⟩))
    rcases boundary_found hfound with ⟨x, rest, hq, -, rfl⟩ | ⟨l, rest, hq, -, -⟩
    · rw [hq, List.take_succ_cons, List.take_zero, decodeFrame_single] at hdecode
      obtain rfl : kind x = k := by simpa using hdecode
      simpa [hq] using header_of_kind hk
    · have hdata := (found_isDataResult hfound).2 (by rw [hq]; rfl)
      rw [hdecode] at hdata
      exact hdata.elim

/-- Settles O34: the cases of `Effect` that write ENG_STATE. -/
theorem engineChangesAreTheTableRows : Obligations.EngineChangesAreTheTableRows := by
  unfold Obligations.EngineChangesAreTheTableRows
  intro i s t hinv hexec hne
  cases exec_effect hexec with
  | nothing | port | chunk | oversize | refused | unknown => exact absurd rfl hne
  | reset => exact .inl ⟨rfl, rfl⟩
  | written mt cmd ps h d f _ he hl _ ha =>
    exact .inr (.inl ⟨he, mt, cmd, ps, h, d, rfl, hl, .inl ⟨ha, rfl⟩⟩)
  | writeFailed mt cmd ps h d f j c _ he hl _ ha =>
    exact .inr (.inl ⟨he, mt, cmd, ps, h, d, rfl, hl, .inr ⟨ne_ok_of_answerStops ha, rfl⟩⟩)
  | stopped _ c hrun hi => exact .inr (.inr (.inl ⟨hrun, rfl, hi⟩))
  | abandoned _ p o hp hi =>
    have hhas : s.pendingHas p.handle = true := by simp [State.pendingHas_some hp]
    exact .inr (.inr (.inr (.inr ⟨hinv.engState_of_pending hp, rfl,
      .inr (.inr (.inr (.inr ⟨p.handle, hhas, hi⟩)))⟩)))
  | frame _ f s0 _ hrun hd ht =>
    cases ht with
    | logged => exact absurd hd.engState_eq hne
    | published | rejected => exact absurd (s0.afterDraw_engState.trans hd.engState_eq) hne
    | failed j c hdata ha =>
      have hok : s.txAnswer ≠ .ok := hd.txAnswer_eq ▸ ne_ok_of_answerStops ha
      exact .inr (.inr (.inr (.inl ⟨hrun, rfl, hok, hd.instr_of_isDataResult hdata⟩)))
    | resolved k p o hdecode hk hp =>
      have hawait := hinv.engState_of_pending (hd.pending_eq.symm.trans hp)
      have hi := hd.instr_of_control hdecode (hk.imp And.left (Or.imp And.left And.left))
      refine .inr (.inr (.inr (.inr ⟨hawait, rfl, ?_⟩)))
      rcases hi with hi | hi | hi | hi
      · exact .inl hi
      · exact .inr (.inl hi)
      · exact .inr (.inr (.inl hi))
      · exact .inr (.inr (.inr (.inl hi)))

end Sys2Proof.Machine
end

section
/-! Proofs of the race statements O58 and O59 (R147, R174), each a run put together from the statements about its
events, and of the ordinals O60 (R12, R140). -/

namespace Sys2Proof.Machine

/-! ### An ACK at the head of the queue -/

section
variable {s : State} {rest : List Byte}

/-- R94 and R115: extracting an ACK is the ACK row without that byte. -/
theorem exec_rxExtract_of_ack (hrun : s.engState ≠ .stopped) (hq : s.rxq = 0x06#8 :: rest) :
    exec .rxExtract s = exec .ack { s with rxq := rest } :=
  extractRunsTheDecodedFrame s .ack rest hrun (by rw [hq, decodeWire_control rest (by decide)]; rfl)

/-- R116: it delivers the pending write. -/
theorem exec_rxExtract_delivers {p : PendingWrite} (hrun : s.engState ≠ .stopped) (hq : s.rxq = 0x06#8 :: rest)
    (hp : s.pending = some p) : exec .rxExtract s = .next { s with
      rxq := rest, out := s.out ++ [.cpl p.handle .delivered],
      pending := none, permit := .free, engState := .idle } := by
  rw [exec_rxExtract_of_ack hrun hq]
  exact (ackDeliversThePendingWrite { s with rxq := rest } hrun).1 p hp

/-- R116: with nothing pending it is logged as unexpected. -/
theorem exec_rxExtract_logs (hrun : s.engState ≠ .stopped) (hq : s.rxq = 0x06#8 :: rest) (hp : s.pending = none) :
    exec .rxExtract s = .next { s with rxq := rest, out := s.out ++ [.log .unexpectedAck] } := by
  rw [exec_rxExtract_of_ack hrun hq]
  exact (ackDeliversThePendingWrite { s with rxq := rest } hrun).2 hp

end

/-- R110: from Idle, with an Ok transmit, a WRITE emits the bytes of a frame and leaves that frame pending. -/
theorem exec_write_registers {mt cmd : Byte} {ps : List Byte} (h : Handle) (d : Option Deadline) {s : State}
    (hp : s.permit = .free) (he : s.engState = .idle) (hl : ps.length ≤ 252) (ha : s.txAnswer = .ok) :
    ∃ f : List Byte, exec (.write mt cmd ps h d) s = .next { s.afterDraw with
      out := s.out ++ f.map .tx, permit := .held,
      pending := some { frame := f, handle := h, deadline := d }, engState := .awaitingAck } := by
  obtain ⟨f, -, hok, -⟩ := writeTransmitsAndRegisters mt cmd ps h d s hp he hl
  exact ⟨f, hok ha⟩

/-- Settles O58: each order is two events. -/
theorem racesRunInBothOrders : Obligations.RacesRunInBothOrders := by
  unfold Obligations.RacesRunInBothOrders
  constructor
  · intro s t u p dl rest he hp hd hq
    obtain ⟨htimeout, -⟩ := timeoutNeedsHandleAndDeadline p.handle s
    constructor
    · intro h1 h2
      rw [exec_rxExtract_delivers (by simp [he]) hq hp] at h1
      cases h1
      rw [(timeoutNeedsHandleAndDeadline p.handle _).2.2.2 rfl] at h2
      cases h2
      rfl
    · intro h1 h2
      rw [htimeout p dl hp rfl hd] at h1
      cases h1
      rw [exec_rxExtract_logs (rest := rest) (by simp) (by simpa using hq) rfl] at h2
      cases h2
      simp
  · intro s t u mt cmd ps h d rest hinv he hq hl ha
    have hfree := hinv.permit_eq_free (by simp [he])
    have hnone := hinv.pending_eq_none (by simp [he])
    constructor
    · intro h1 h2
      rw [exec_rxExtract_logs (by simp [he]) hq hnone] at h1
      cases h1
      obtain ⟨f, hf⟩ := exec_write_registers (mt := mt) (cmd := cmd) h d
        (s := { s with rxq := rest, out := s.out ++ [.log .unexpectedAck] }) hfree he hl ha
      rw [hf] at h2
      cases h2
      refine ⟨?_, ?_, rfl⟩
      · rw [logOf_append, logOf_append, logOf_tx, List.append_nil]; rfl
      · rw [cplOf_append, cplOf_append, cplOf_tx, List.append_nil]; exact List.append_nil _
    · intro h1 h2
      obtain ⟨f, hf⟩ := exec_write_registers (mt := mt) (cmd := cmd) h d hfree he hl ha
      rw [hf] at h1
      cases h1
      rw [exec_rxExtract_delivers (rest := rest) (by simp) (by simpa using hq) rfl] at h2
      cases h2
      refine ⟨?_, ?_, rfl⟩
      · rw [logOf_append, logOf_append, logOf_tx, List.append_nil]; exact List.append_nil _
      · rw [cplOf_append, cplOf_append, cplOf_tx, List.append_nil]; rfl

/-- Settles O59: the ACK is matched with whatever write is pending when it is extracted. -/
theorem lateAckResolvesTheNewWrite : Obligations.LateAckResolvesTheNewWrite := by
  unfold Obligations.LateAckResolvesTheNewWrite
  intro s t u v p mt cmd ps h d rest hinv hp hq hl ha hcancel hwrite hextract
  rw [(cancelActsOnlyOnItsHandle p.handle s).1 p hp rfl] at hcancel
  cases hcancel
  obtain ⟨f, hf⟩ := exec_write_registers (mt := mt) (cmd := cmd) h d
    (s := { s with
      out := s.out ++ [.cpl p.handle .writeCanceled], pending := none, permit := .free, engState := .idle })
    rfl rfl hl ha
  rw [hf] at hwrite
  cases hwrite
  rw [exec_rxExtract_delivers (rest := rest) (by simp) (by simpa using hq) rfl] at hextract
  cases hextract
  refine ⟨?_, rfl⟩
  rw [cplOf_append, cplOf_append, cplOf_append, cplOf_tx, List.append_nil, List.append_assoc]; rfl

/-- Settles O60: the numbers of R140 and R12, and the kind of a FrameRejected record for every error. -/
theorem errorKindsCarryTheirOrdinals : Obligations.ErrorKindsCarryTheirOrdinals :=
  ⟨rfl, rfl, rfl, rfl, fun _ => rfl, rfl⟩

end Sys2Proof.Machine
end
